-- ==== Sys2Proof/Word.lean ====
section
/-! DEFINITION. The machine's words: the byte of the source (R9, R50) and the 32-bit word a 4-byte element is read as (R10). -/

namespace Sys2Proof

/-- A byte of the source: "the byte is the unit of addressing; a byte is 8 bits" (R50). -/
abbrev Byte := BitVec 8

/-- The word `W = be(bytes)` of a 4-byte element (R10). -/
abbrev Word := BitVec 32

end Sys2Proof
end

