-- ==== Sys2Proof/Config.lean ====
section
/-! DEFINITION. What is fixed when the hardware is built (R8, R262): the two parameters the spec leaves open, MAGIC (D1)
and UTF8_VALID (D15). The parameters the spec fixes (POLICY = Baseline, APPLY_BIAS = false, MAGIC_FATAL = true, unbounded
cursor and result store) have no field: the rules that use them are written with those values. -/

namespace Sys2Proof

/-- Which predicate UTF8_VALID is (R8, R126, D15): the spec's default table, or some other one. -/
inductive Utf8Rule where
  /-- The default: the well-formed UTF-8 table of R126. -/
  | wellFormed
  /-- Any other total predicate an implementation may have been built with: `Config.otherUtf8Valid`. -/
  | other
deriving DecidableEq, Repr

/-- A UTF8_VALID other than the default (D15 leaves the predicate open). It has no body, so a statement about
a state whose `cfg.utf8` is `other` holds whatever predicate the implementation has (log 2). -/
opaque Config.otherUtf8Valid : List Byte → Bool

/-- The configuration (R8): MAGIC, held as the word `be(MAGIC)` the opcode table matches, and UTF8_VALID. -/
structure Config where
  magic : Word
  utf8 : Utf8Rule
deriving DecidableEq, Repr

/-- The spec's default configuration: MAGIC = `66 4C 61 43`, UTF8_VALID = the table of R126 (R8, D1, D15, log 1). -/
def Config.standard : Config := ⟨0x664C6143#32, .wellFormed⟩

end Sys2Proof
end

