-- ==== Sys2Proof/Syntax.lean ====
section
/-! DEFINITION. The records a container is made of (R33 to R35, R40) and the machine's instructions: the elements and
field groups of spec/opcode_table.json, one constructor a row (R93). -/

namespace Sys2Proof

/-- BlockHeader (R33, R83): 32 bits. -/
@[ext]
structure BlockHeader where
  isLast : BitVec 1
  blockType : BitVec 7
  length : BitVec 24
deriving DecidableEq, Repr

/-- StreamInfo (R34, R84): nine unsigned fields, 272 bits. -/
@[ext]
structure StreamInfo where
  minBlockSize : BitVec 16
  maxBlockSize : BitVec 16
  minFrameSize : BitVec 24
  maxFrameSize : BitVec 24
  sampleRate : BitVec 20
  channelsCode : BitVec 3
  bpsCode : BitVec 5
  totalSamples : BitVec 36
  md5 : BitVec 128
deriving DecidableEq, Repr

/-- SeekPoint (R35, R85): three unsigned fields, 144 bits. -/
@[ext]
structure SeekPoint where
  sampleNumber : BitVec 64
  streamOffset : BitVec 64
  frameSamples : BitVec 16
deriving DecidableEq, Repr

/-- The five frame-header fields that validation leaves free: the letters k, z, q, c, w of the row FMT.FRAMEHDR. -/
@[ext]
structure FrameCodes where
  blockingStrategy : BitVec 1
  blockSizeCode : BitVec 4
  sampleRateCode : BitVec 4
  channelCfgCode : BitVec 4
  sampleSizeCode : BitVec 3
deriving DecidableEq, Repr

/-- FrameHeaderRaw (R40, R89): eight unsigned fields, 32 bits. -/
@[ext]
structure FrameHeaderRaw where
  sync : BitVec 14
  reserved1 : BitVec 1
  blockingStrategy : BitVec 1
  blockSizeCode : BitVec 4
  sampleRateCode : BitVec 4
  channelCfgCode : BitVec 4
  sampleSizeCode : BitVec 3
  reserved2 : BitVec 1
deriving DecidableEq, Repr

/-- The engine's sequencing state (R41), and the context that selects the opcode table's rows (R93). -/
inductive Phase where
  /-- 0: the signature is next. -/
  | magic
  /-- 1: a block header is next. -/
  | blocks
  /-- 2: the frame header is next. -/
  | frame
deriving DecidableEq, Repr

/-- The codec's field groups: the four big-endian schemas of R122 and the little-endian 32-bit field of R123. -/
inductive Group where
  | blkhdr
  | streamInfo
  | seekPoint
  | u32le
  | framehdr
deriving DecidableEq, Repr

/-- Where a row of the opcode table applies (its key "context", R93): a whole element of a phase, or one field group
of the codec. -/
inductive Context where
  | element (p : Phase)
  | group (g : Group)
deriving DecidableEq, Repr

/-- The instructions: one constructor per row of spec/opcode_table.json. A BLK row's operands are the header's bits
that the row leaves free, so a block of one row cannot carry a type code of another. -/
inductive Instr where
  /-- MAGIC (R192): the first four bytes as a word, equal to `be(MAGIC)` or the row's "else". -/
  | magic (sig : Word)
  /-- BLK.STREAMINFO, type code 0 (R160). -/
  | blkStreaminfo (isLast : BitVec 1) (length : BitVec 24)
  /-- BLK.PADDING, type code 1 (R175). -/
  | blkPadding (isLast : BitVec 1) (length : BitVec 24)
  /-- BLK.APPLICATION, type code 2 (R145). -/
  | blkApplication (isLast : BitVec 1) (length : BitVec 24)
  /-- BLK.SEEKTABLE, type code 3 (R164). -/
  | blkSeektable (isLast : BitVec 1) (length : BitVec 24)
  /-- BLK.VORBISCOMMENT, type code 4 (R168). -/
  | blkVorbiscomment (isLast : BitVec 1) (length : BitVec 24)
  /-- BLK.CUESHEET, type code 5 (R145). -/
  | blkCuesheet (isLast : BitVec 1) (length : BitVec 24)
  /-- BLK.PICTURE, type code 6 (R145). -/
  | blkPicture (isLast : BitVec 1) (length : BitVec 24)
  /-- BLK.RESERVED_7 (R145). -/
  | blkReserved7 (isLast : BitVec 1) (length : BitVec 24)
  /-- BLK.RESERVED_8_15: type code `0001 low` (R145). -/
  | blkReserved8_15 (isLast : BitVec 1) (low : BitVec 3) (length : BitVec 24)
  /-- BLK.RESERVED_16_31: type code `001 low` (R145). -/
  | blkReserved16_31 (isLast : BitVec 1) (low : BitVec 4) (length : BitVec 24)
  /-- BLK.RESERVED_32_63: type code `01 low` (R145). -/
  | blkReserved32_63 (isLast : BitVec 1) (low : BitVec 5) (length : BitVec 24)
  /-- BLK.RESERVED_64_95: type code `10 low` (R145). -/
  | blkReserved64_95 (isLast : BitVec 1) (low : BitVec 5) (length : BitVec 24)
  /-- BLK.RESERVED_96_111: type code `110 low` (R145). -/
  | blkReserved96_111 (isLast : BitVec 1) (low : BitVec 4) (length : BitVec 24)
  /-- BLK.RESERVED_112_119: type code `1110 low` (R145). -/
  | blkReserved112_119 (isLast : BitVec 1) (low : BitVec 3) (length : BitVec 24)
  /-- BLK.RESERVED_120_123: type code `11110 low` (R145). -/
  | blkReserved120_123 (isLast : BitVec 1) (low : BitVec 2) (length : BitVec 24)
  /-- BLK.RESERVED_124_125: type code `111110 low` (R145). -/
  | blkReserved124_125 (isLast : BitVec 1) (low : BitVec 1) (length : BitVec 24)
  /-- BLK.RESERVED_126 (R145). -/
  | blkReserved126 (isLast : BitVec 1) (length : BitVec 24)
  /-- BLK.INVALID, type code 127 (R145). -/
  | blkInvalid (isLast : BitVec 1) (length : BitVec 24)
  /-- FRAMEHDR (R210): a valid frame header, or one with a bad sync (the row's "else", R212). -/
  | framehdr (f : FrameHeaderRaw)
  /-- FRAMEHDR.RESERVED1 (R213): sync good, reserved1 = 1, the other bits free. -/
  | framehdrReserved1 (c : FrameCodes) (reserved2 : BitVec 1)
  /-- FRAMEHDR.RESERVED2 (R213): sync good, reserved2 = 1, the other bits free. -/
  | framehdrReserved2 (reserved1 : BitVec 1) (c : FrameCodes)
  /-- FMT.BLKHDR (R140): the block header's field group. -/
  | fmtBlkhdr (h : BlockHeader)
  /-- PAY.STREAMINFO (R160): the StreamInfo payload's field group, 34 bytes. -/
  | payStreaminfo (si : StreamInfo)
  /-- PAY.SEEKPOINT (R164): one record of a SeekTable payload, 18 bytes. -/
  | paySeekpoint (p : SeekPoint)
  /-- PAY.U32LE (R123): one length or count of a VorbisComment payload. -/
  | payU32le (v : BitVec 32)
  /-- FMT.FRAMEHDR (R210): the frame header's field group, its fixed bits as the row gives them. -/
  | fmtFramehdr (c : FrameCodes)
deriving DecidableEq, Repr

end Sys2Proof
end

