-- ==== Sys2Proof/Machine/Operands.lean ====
section
/-! DEFINITION. Operand assembly: the three ways of R90 and no other. Byte order is decided here once (R54): `be` and the
schema-driven big-endian bit-packed group (R55, R121, R122), `le` and the little-endian 32-bit field (R56), and byte
strings as they stand. The inverses (`beBytes`, `leBytes`, each record's `word`) serve the encoder only: the engine never
writes the source (R51). -/

namespace Sys2Proof

/-- `be(s)`: first byte most significant (R10). -/
def be : List Byte → Nat
  | [] => 0
  | b :: rest => b.toNat * 256 ^ rest.length + be rest

/-- `le(s)`: first byte least significant (R10). -/
def le : List Byte → Nat
  | [] => 0
  | b :: rest => b.toNat + 256 * le rest

/-- The `n` bytes whose `be` is `v` (modulo `256 ^ n`). -/
def beBytes : Nat → Nat → List Byte
  | 0, _ => []
  | n + 1, v => BitVec.ofNat 8 (v / 256 ^ n) :: beBytes n v

/-- The `n` bytes whose `le` is `v` (modulo `256 ^ n`); with `n = 4` the `U32LE v` of R92. -/
def leBytes : Nat → Nat → List Byte
  | 0, _ => []
  | n + 1, v => BitVec.ofNat 8 v :: leBytes n (v / 256)

/-- The integer `W = be(bytes)` of a big-endian group of `bits` bits (R55). -/
def groupWord (bits : Nat) (bytes : List Byte) : BitVec bits := BitVec.ofNat bits (be bytes)

/-- SYNC, the 14-bit sync pattern (R7: a constant, which "a model hard-codes"). -/
def syncPattern : BitVec 14 := 0x3FFE#14

/-- A field-group schema: the bit widths in order (R121). -/
abbrev Schema := List Nat

/-- `lo_k` of R55: field `k` ends above the widths that come after it. -/
def Schema.lo (ws : Schema) (k : Nat) : Nat := (ws.drop (k + 1)).sum

/-- Field `k` of the group's integer, `W[hi_k : lo_k]`, cut from the most significant end (R55, R121). -/
def Schema.field (ws : Schema) (k : Nat) {bits : Nat} (W : BitVec bits) : BitVec (ws.getD k 0) :=
  W.extractLsb' (ws.lo k) (ws.getD k 0)

/-- BLKHDR_SCHEMA (R122, R83). -/
def blkhdrSchema : Schema := [1, 7, 24]
/-- STREAMINFO_SCHEMA (R122, R84). -/
def streamInfoSchema : Schema := [16, 16, 24, 24, 20, 3, 5, 36, 128]
/-- SEEKPOINT_SCHEMA (R122, R85). -/
def seekPointSchema : Schema := [64, 64, 16]
/-- FRAMEHDR_SCHEMA (R122, R89). -/
def framehdrSchema : Schema := [14, 1, 1, 4, 4, 4, 3, 1]

/-- `UnpackBE(BLKHDR_SCHEMA)` on the group's integer (R121, R140). -/
def BlockHeader.ofWord (W : Word) : BlockHeader where
  isLast := blkhdrSchema.field 0 W
  blockType := blkhdrSchema.field 1 W
  length := blkhdrSchema.field 2 W

/-- `UnpackBE(STREAMINFO_SCHEMA)` on the group's integer (R121, R160). -/
def StreamInfo.ofWord (W : BitVec 272) : StreamInfo where
  minBlockSize := streamInfoSchema.field 0 W
  maxBlockSize := streamInfoSchema.field 1 W
  minFrameSize := streamInfoSchema.field 2 W
  maxFrameSize := streamInfoSchema.field 3 W
  sampleRate := streamInfoSchema.field 4 W
  channelsCode := streamInfoSchema.field 5 W
  bpsCode := streamInfoSchema.field 6 W
  totalSamples := streamInfoSchema.field 7 W
  md5 := streamInfoSchema.field 8 W

/-- `UnpackBE(SEEKPOINT_SCHEMA)` on the group's integer (R121, R164). -/
def SeekPoint.ofWord (W : BitVec 144) : SeekPoint where
  sampleNumber := seekPointSchema.field 0 W
  streamOffset := seekPointSchema.field 1 W
  frameSamples := seekPointSchema.field 2 W

/-- `UnpackBE(FRAMEHDR_SCHEMA)` on the group's integer (R121, R210). -/
def FrameHeaderRaw.ofWord (W : Word) : FrameHeaderRaw where
  sync := framehdrSchema.field 0 W
  reserved1 := framehdrSchema.field 1 W
  blockingStrategy := framehdrSchema.field 2 W
  blockSizeCode := framehdrSchema.field 3 W
  sampleRateCode := framehdrSchema.field 4 W
  channelCfgCode := framehdrSchema.field 5 W
  sampleSizeCode := framehdrSchema.field 6 W
  reserved2 := framehdrSchema.field 7 W

/-- The header word: `last*2^31 + type*2^24 + len` (R92); also the view of HDR as register SR5 (R24). -/
def BlockHeader.word (h : BlockHeader) : Word :=
  BitVec.ofNat 32 (h.isLast.toNat * 2 ^ 31 + h.blockType.toNat * 2 ^ 24 + h.length.toNat)

/-- The 272-bit integer of a StreamInfo: each field at its place in R84. -/
def StreamInfo.word (si : StreamInfo) : BitVec 272 :=
  BitVec.ofNat 272 (si.minBlockSize.toNat * 2 ^ 256 + si.maxBlockSize.toNat * 2 ^ 240 + si.minFrameSize.toNat * 2 ^ 216
    + si.maxFrameSize.toNat * 2 ^ 192 + si.sampleRate.toNat * 2 ^ 172 + si.channelsCode.toNat * 2 ^ 169
    + si.bpsCode.toNat * 2 ^ 164 + si.totalSamples.toNat * 2 ^ 128 + si.md5.toNat)

/-- The 144-bit integer of a SeekPoint: each field at its place in R85. -/
def SeekPoint.word (p : SeekPoint) : BitVec 144 :=
  BitVec.ofNat 144 (p.sampleNumber.toNat * 2 ^ 80 + p.streamOffset.toNat * 2 ^ 16 + p.frameSamples.toNat)

/-- The frame-header word: each field at its place in R89. -/
def FrameHeaderRaw.word (f : FrameHeaderRaw) : Word :=
  BitVec.ofNat 32 (f.sync.toNat * 2 ^ 18 + f.reserved1.toNat * 2 ^ 17 + f.blockingStrategy.toNat * 2 ^ 16
    + f.blockSizeCode.toNat * 2 ^ 12 + f.sampleRateCode.toNat * 2 ^ 8 + f.channelCfgCode.toNat * 2 ^ 4
    + f.sampleSizeCode.toNat * 2 + f.reserved2.toNat)

/-- The two reserved bits are 0 (R89, R210). -/
def FrameHeaderRaw.reservedClear (f : FrameHeaderRaw) : Bool := f.reserved1 == 0#1 && f.reserved2 == 0#1

/-- A legal frame header: good sync, both reserved bits 0 (R40, R89). -/
def FrameHeaderRaw.valid (f : FrameHeaderRaw) : Bool := f.sync == syncPattern && f.reservedClear

/-- The five free fields of a frame header (row FMT.FRAMEHDR). -/
def FrameHeaderRaw.codes (f : FrameHeaderRaw) : FrameCodes :=
  ⟨f.blockingStrategy, f.blockSizeCode, f.sampleRateCode, f.channelCfgCode, f.sampleSizeCode⟩

/-- The frame header with the good sync, the given reserved bits and the given codes. -/
def FrameCodes.header (c : FrameCodes) (reserved1 reserved2 : BitVec 1) : FrameHeaderRaw :=
  ⟨syncPattern, reserved1, c.blockingStrategy, c.blockSizeCode, c.sampleRateCode, c.channelCfgCode,
    c.sampleSizeCode, reserved2⟩

/-- The little-endian 32-bit field of 4 bytes (R56, R123). -/
def u32le (bytes : List Byte) : BitVec 32 := BitVec.ofNat 32 (le bytes)

end Sys2Proof
end

