-- ==== Sys2Proof/Machine/State.lean ====
section
/-! DEFINITION. The machine's state as plain data: the thirteen pieces of R24, the argument of the running parse (SRC and
SRC_LEN), the configuration (R8), and the host's coming moves; and `State.reset` (R43, R260). -/

namespace Sys2Proof.Machine

/-- STATUS, register SR0 (R30). -/
inductive Status where
  /-- 0: after reset, no parse has run. -/
  | idle
  /-- 1: a parse is running. -/
  | busy
  /-- 2: the last parse succeeded; the result store is valid. -/
  | done
  /-- 3: the last parse raised a fault. -/
  | failed
deriving DecidableEq, Repr

/-- The classes written to ERR_CLASS (R31); None is the absence of one. UnsupportedBlockError is never written (R225). -/
inductive FaultClass where
  | structuralError
  | encodingError
deriving DecidableEq, Repr

/-- The faults of the parse (R221), each entered by `raise` (R226): a NEXT state, not a stop of the model. -/
inductive FaultKind where
  | badSignature
  | syncMismatch
  | reservedBitSet
  | seekTableLength
  | truncated
  | invalidUtf8
deriving DecidableEq, Repr

/-- STOP_REASON, register SR2 (R28). -/
inductive StopReason where
  | none
  | lastFlag
  | unsupported
deriving DecidableEq, Repr

/-- VorbisComment (R36): the vendor string and the comment strings as their exact bytes, in payload order. -/
structure VorbisComment where
  vendor : List Byte
  comments : List (List Byte)
deriving DecidableEq, Repr

/-- The four payload variants the baseline hardware builds (R38, R34 to R37). -/
inductive Payload where
  | streamInfo (si : StreamInfo)
  | seekTable (points : List SeekPoint)
  | vorbisComment (vc : VorbisComment)
  | padding (length : BitVec 24)
deriving DecidableEq, Repr

/-- MetadataBlock (R38): one header with one decoded payload. -/
structure MetadataBlock where
  header : BlockHeader
  payload : Payload
deriving DecidableEq, Repr

/-- The source: SRC as address and byte pairs, SRC_LEN as its length (R50). An unlisted address below the length holds 00
(log 4); an address at or above the length does not exist (R52). -/
structure Memory where
  cells : List Host.Cell
  len : Nat
deriving DecidableEq, Repr

/-- What the host does between two engine steps (R20, R21, R237, R260; log 5). -/
inductive HostMove where
  /-- Nothing: the engine moves. -/
  | nothing
  /-- START with the source's bytes; SRC_LEN is their number (R21, R190). -/
  | start (src : List Byte)
  /-- Read the status registers (R237). -/
  | readStatus
  /-- Read the result store (R237, R22). -/
  | readResult
  /-- Reset (R260). -/
  | reset
  /-- Change the bytes or the length of the source the last START named (U9). -/
  | changeSource
  /-- Stop answering the engine's reads (U12). -/
  | stopAnswering
deriving DecidableEq, Repr

/-- The machine. The first thirteen fields are the state of R24; `src` is the argument of the running parse and `cfg` the
configuration, which R24 counts as no state (log 1, log 3); `host` is the model's own (log 5). -/
structure State where
  status : Status
  errClass : Option FaultClass
  errKind : Option FaultKind
  stopReason : StopReason
  cur : Nat
  hdrStart : Nat
  hdr : BlockHeader
  phase : Phase
  blocks : List MetadataBlock
  refStreamInfo : Option Nat
  refSeekTable : Option Nat
  refVorbisComment : Option Nat
  frame : Option FrameHeaderRaw
  src : Memory
  cfg : Config
  host : List HostMove
deriving DecidableEq, Repr

/-- Why the machine stops with no next state. The spec's own faults are no stops: they are entered (R226). -/
inductive Fault where
  /-- Raised by `hostMove` for `HostMove.stopAnswering` while Busy: "the engine stays Busy for ever; there is no timeout"
  (U12, treatment `stuck`). Safe: no claim can rest on what comes after. -/
  | unansweredRead
deriving DecidableEq, Repr

/-- What the model has no meaning for. -/
inductive Refusal where
  /-- Raised by a refused arm of `exec` only: an instruction without a meaning yet. No arm does so. Safe. -/
  | notModelled (mnemonic : String)
  /-- Raised by `hostMove` for `HostMove.readResult` while Busy (R22, U10, treatment `refuse`). Safe. -/
  | readWhileBusy
  /-- Raised by `hostMove` for `HostMove.changeSource` while Busy (R58, R263, U9, treatment `refuse`). Safe. -/
  | sourceChangedWhileBusy
deriving DecidableEq, Repr

/-- The source of no bytes. -/
def Memory.empty : Memory := ⟨[], 0⟩

/-- The all-zero header. -/
def zeroHeader : BlockHeader := ⟨0#1, 0#7, 0#24⟩

/-- The machine right after reset: every piece of R24 at its reset value (R43). -/
def State.reset : State where
  status := .idle
  errClass := none
  errKind := none
  stopReason := .none
  cur := 0
  hdrStart := 0
  hdr := zeroHeader
  phase := .magic
  blocks := []
  refStreamInfo := none
  refSeekTable := none
  refVorbisComment := none
  frame := none
  src := Memory.empty
  cfg := Config.standard
  host := []

end Sys2Proof.Machine
end

