-- ==== Sys2Proof/Machine/Ops.lean ====
section
/-! DEFINITION. The named operations over the source and the registers: MemRead (R52), the codec's Read and Seek (R120,
R125), fault entry (R226), START (R190) and reset (R260). Memory is in one canonical form: addresses strictly rising and
below the length, no entry equal to 00, the value an unlisted address reads as. -/

namespace Sys2Proof.Machine

/-! ### The source (R50, R52) -/

/-- The byte at an address (below the length): an unlisted one holds 00 (log 4). -/
def cellAt (cells : List Host.Cell) (a : Nat) : Byte :=
  match cells with
  | [] => 0#8
  | (b, v) :: rest => if b = a then v else cellAt rest a

/-- The byte of the source at an address; used only below `len`, where `MemRead` looks. -/
def Memory.byte (m : Memory) (a : Nat) : Byte := cellAt m.cells a

/-- The `n` bytes from an address. -/
def Memory.bytes (m : Memory) (a : Nat) : Nat → List Byte
  | 0 => []
  | n + 1 => m.byte a :: m.bytes (a + 1) n

/-- The canonical form of a list of cells: addresses strictly rising from `low` on and below `len`, no byte 00. -/
def cellsWf (len low : Nat) : List Host.Cell → Bool
  | [] => true
  | (a, v) :: rest => decide (low ≤ a) && decide (a < len) && v != 0#8 && cellsWf len (a + 1) rest

/-- The memory is in canonical form, so equal sources are equal data. -/
def Memory.wf (m : Memory) : Bool := cellsWf m.len 0 m.cells

/-- The cells of a byte array laid down from an address on. -/
def cellsFrom (a : Nat) : List Byte → List Host.Cell
  | [] => []
  | v :: rest => if v = 0#8 then cellsFrom (a + 1) rest else (a, v) :: cellsFrom (a + 1) rest

/-- The source START is given: the byte array from offset 0, and its length (R21, R50). -/
def Memory.ofBytes (bytes : List Byte) : Memory := ⟨cellsFrom 0 bytes, bytes.length⟩

/-- `MemRead(addr, n)`: all `n` bytes or Truncated (R52). -/
def Memory.read (m : Memory) (addr n : Nat) : Except FaultKind (List Byte) :=
  if addr + n ≤ m.len then .ok (m.bytes addr n) else .error .truncated

/-! ### The codec's reads (R120, R123, R124, R125): a value and the new cursor, or a fault -/

/-- `Read(n)` at a cursor (R120): the bytes, and the cursor moved past them. -/
def Memory.readAt (m : Memory) (cur n : Nat) : Except FaultKind (List Byte × Nat) :=
  match m.read cur n with
  | .ok b => .ok (b, cur + n)
  | .error k => .error k

/-- `Seek(target)` (R125): the new cursor, or Truncated when the target lies beyond the end. No byte is read. -/
def Memory.seek (m : Memory) (target : Nat) : Except FaultKind Nat :=
  if target > m.len then .error .truncated else .ok target

/-! ### Registers cleared, faults, START, reset -/

/-- Every piece of R24 at its reset value except STATUS, which the caller names; the source, the configuration and the
host's moves stay. Reset, START and fault entry share this clearing (R43, D12). -/
def State.cleared (s : State) (status : Status) : State where
  status := status
  errClass := none
  errKind := none
  stopReason := .none
  cur := 0
  hdrStart := 0
  hdr := zeroHeader
  phase := .magic
  blocks := []
  refStreamInfo := none
  refSeekTable := none
  refVorbisComment := none
  frame := none
  src := s.src
  cfg := s.cfg
  host := s.host

/-- The class of a fault: kinds 1 to 5 are StructuralErrors, InvalidUtf8 is an EncodingError (R31, R221). -/
def FaultKind.faultClass : FaultKind → FaultClass
  | .badSignature | .syncMismatch | .reservedBitSet | .seekTableLength | .truncated => .structuralError
  | .invalidUtf8 => .encodingError

/-- Fault entry, `raise K` (R226): class and kind recorded, everything else cleared, STATUS Failed. There is no return
from it (R229): START and reset, below, are the only ways out of Failed. -/
def State.raise (s : State) (k : FaultKind) : State :=
  { s.cleared .failed with errClass := some k.faultClass, errKind := some k }

/-- START(SRC, SRC_LEN) when accepted (R190): everything cleared, the source taken, STATUS Busy. -/
def State.start (s : State) (bytes : List Byte) : State :=
  { s.cleared .busy with src := Memory.ofBytes bytes }

/-- The reset event (R260): every piece of R24 at its reset value; the abandoned parse's source is dropped, the
configuration and the host's further moves are no state of the machine and stay (log 13). -/
def State.resetEvent (s : State) : State :=
  { s.cleared .idle with src := Memory.empty }

/-- Run an operation that may raise: its result is the next state, or the fault is entered (R11, R226). -/
def State.orRaise (s : State) (r : Except FaultKind State) : State :=
  match r with
  | .ok t => t
  | .error k => s.raise k

/-- `Read(n)` for its length alone: the cursor moved past `n` bytes, or Truncated (R120). The operand of an instruction is
what the fetch decoded from these bytes. -/
def State.advance (s : State) (n : Nat) : Except FaultKind State :=
  if s.cur + n ≤ s.src.len then .ok { s with cur := s.cur + n } else .error .truncated

/-- `Seek(target)` on the cursor register (R125). -/
def State.seekTo (s : State) (target : Nat) : Except FaultKind State :=
  match s.src.seek target with
  | .ok c => .ok { s with cur := c }
  | .error k => .error k

/-- Where the current block ends: `HDR_START + 4 + HDR.length` (R146). -/
def State.blockEnd (s : State) : Nat := s.hdrStart + 4 + s.hdr.length.toNat

end Sys2Proof.Machine
end

