-- ==== Sys2Proof/Machine/Codec.lean ====
section
/-! DEFINITION. Family 40: the codec's field groups as instructions (rows FMT.BLKHDR, PAY.STREAMINFO, PAY.SEEKPOINT,
PAY.U32LE). A group's operation reads its bytes at the cursor and returns its value to the component that asked; the state
it writes is CUR (R120, R121, R123, R160, R164), and for the block header HDR_START and HDR (R140). The value is the
instruction's operand; the block step receives it and stores it (Payload.lean, Blocks.lean; log 7). -/

namespace Sys2Proof.Machine

/-- `DecodeHeader()` (R140): HDR_START, HDR, and CUR advanced by 4. -/
def State.decodeHeader (s : State) (h : BlockHeader) : Except FaultKind State :=
  match s.advance 4 with
  | .ok t => .ok { t with hdrStart := s.cur, hdr := h }
  | .error k => .error k

/-- FMT.BLKHDR (R140). -/
def execFmtBlkhdr (h : BlockHeader) (s : State) : Host.Outcome State Fault Refusal :=
  .next (s.orRaise (s.decodeHeader h))

/-- PAY.STREAMINFO (R160): the record `si` is returned; CUR is advanced by 34. -/
def execPayStreaminfo (_si : StreamInfo) (s : State) : Host.Outcome State Fault Refusal :=
  .next (s.orRaise (s.advance 34))

/-- PAY.SEEKPOINT (R164): the record `p` is returned; CUR is advanced by 18. -/
def execPaySeekpoint (_p : SeekPoint) (s : State) : Host.Outcome State Fault Refusal :=
  .next (s.orRaise (s.advance 18))

/-- PAY.U32LE (R123): the value `v` is returned; CUR is advanced by 4. -/
def execPayU32le (_v : BitVec 32) (s : State) : Host.Outcome State Fault Refusal :=
  .next (s.orRaise (s.advance 4))

end Sys2Proof.Machine
end

