-- ==== Sys2Proof/Machine/Flags.lean ====
section
/-! DEFINITION. The flags of R29 and what reads and writes them: the block type tags (R141, R142), the loop test on
HDR.is_last and the unsupported outcome (R193), and the status registers SR0 to SR5 as the host reads them (R24, D10). -/

namespace Sys2Proof.Machine

/-- BlockType (R86). -/
inductive Tag where
  | streamInfo
  | padding
  | application
  | seekTable
  | vorbisComment
  | cueSheet
  | picture
  | reserved (code : BitVec 7)
  | invalid
deriving DecidableEq, Repr

/-- `TypeTag(code)` (R141). -/
def typeTag (code : BitVec 7) : Tag :=
  if code = 0#7 then .streamInfo
  else if code = 1#7 then .padding
  else if code = 2#7 then .application
  else if code = 3#7 then .seekTable
  else if code = 4#7 then .vorbisComment
  else if code = 5#7 then .cueSheet
  else if code = 6#7 then .picture
  else if code = 127#7 then .invalid
  else .reserved code

/-- `HasDecoder(tag)` (R142). -/
def Tag.hasDecoder : Tag → Bool
  | .streamInfo | .padding | .seekTable | .vorbisComment => true
  | .application | .cueSheet | .picture | .reserved _ | .invalid => false

/-- The loop test of BlocksStep (R193), after the block: the unsupported outcome is looked at first, then HDR.is_last;
otherwise PHASE stays Blocks. -/
def State.loopTest (s : State) (unsupported : Bool) : State :=
  if unsupported then { s with stopReason := .unsupported, phase := .frame }
  else if s.hdr.isLast = 1#1 then { s with stopReason := .lastFlag, phase := .frame }
  else s

/-! ### Register views (R24, R28, R30, R31, R41; the numbers are D10's) -/

/-- STATUS as SR0. -/
def Status.code : Status → BitVec 2
  | .idle => 0#2 | .busy => 1#2 | .done => 2#2 | .failed => 3#2

/-- ERR_CLASS: 0 None, 1 StructuralError, 2 EncodingError. -/
def errClassCode : Option FaultClass → BitVec 2
  | none => 0#2 | some .structuralError => 1#2 | some .encodingError => 2#2

/-- ERR_KIND of a fault: 1 to 6. -/
def FaultKind.code : FaultKind → BitVec 3
  | .badSignature => 1#3 | .syncMismatch => 2#3 | .reservedBitSet => 3#3
  | .seekTableLength => 4#3 | .truncated => 5#3 | .invalidUtf8 => 6#3

/-- ERR_KIND: 0 None, or the fault's number. -/
def errKindCode : Option FaultKind → BitVec 3
  | none => 0#3 | some k => k.code

/-- STOP_REASON as SR2. -/
def StopReason.code : StopReason → BitVec 2
  | .none => 0#2 | .lastFlag => 1#2 | .unsupported => 2#2

/-- PHASE's number; the host cannot see it. -/
def phaseCode : Phase → BitVec 2
  | .magic => 0#2 | .blocks => 1#2 | .frame => 2#2

/-- SR0: STATUS. -/
def State.sr0 (s : State) : BitVec 2 := s.status.code
/-- SR1: ERR_CLASS in bits 5:4, ERR_KIND in bits 2:0; bit 3, which no rule names, reads 0 (log 11). -/
def State.sr1 (s : State) : BitVec 6 := errClassCode s.errClass ++ 0#1 ++ errKindCode s.errKind
/-- SR2: STOP_REASON. -/
def State.sr2 (s : State) : BitVec 2 := s.stopReason.code
/-- SR3: CUR. -/
def State.sr3 (s : State) : Nat := s.cur
/-- SR4: HDR_START. -/
def State.sr4 (s : State) : Nat := s.hdrStart
/-- SR5: HDR, is_last in bit 31, block_type in bits 30:24, length in bits 23:0. -/
def State.sr5 (s : State) : Word := s.hdr.word

end Sys2Proof.Machine
end

