-- ==== Sys2Proof/Machine/Utf8.lean ====
section
/-! DEFINITION. UTF8_VALID and CheckUtf8 (R126, R127). -/

namespace Sys2Proof.Machine

/-- An inclusive range of bytes. -/
abbrev ByteRange := Byte × Byte

/-- The byte lies in the range. -/
def inRange (r : ByteRange) (b : Byte) : Bool := decide (r.1 ≤ b) && decide (b ≤ r.2)

/-- The table of R126, one row a line: the ranges of the first, second, third and fourth byte. -/
def utf8Rows : List (List ByteRange) :=
  [ [(0x00#8, 0x7F#8)],
    [(0xC2#8, 0xDF#8), (0x80#8, 0xBF#8)],
    [(0xE0#8, 0xE0#8), (0xA0#8, 0xBF#8), (0x80#8, 0xBF#8)],
    [(0xE1#8, 0xEC#8), (0x80#8, 0xBF#8), (0x80#8, 0xBF#8)],
    [(0xED#8, 0xED#8), (0x80#8, 0x9F#8), (0x80#8, 0xBF#8)],
    [(0xEE#8, 0xEF#8), (0x80#8, 0xBF#8), (0x80#8, 0xBF#8)],
    [(0xF0#8, 0xF0#8), (0x90#8, 0xBF#8), (0x80#8, 0xBF#8), (0x80#8, 0xBF#8)],
    [(0xF1#8, 0xF3#8), (0x80#8, 0xBF#8), (0x80#8, 0xBF#8), (0x80#8, 0xBF#8)],
    [(0xF4#8, 0xF4#8), (0x80#8, 0x8F#8), (0x80#8, 0xBF#8), (0x80#8, 0xBF#8)] ]

/-- The ranges still to come after a first byte: the rest of its row; none where no row begins with it. -/
def utf8Tail (b : Byte) : List (List ByteRange) → Option (List ByteRange)
  | [] => none
  | row :: rows =>
    match row with
    | first :: tail => if inRange first b then some tail else utf8Tail b rows
    | [] => utf8Tail b rows

/-- Scan a string with the ranges its current sequence still needs. A sequence cut short by the end is invalid. -/
def utf8Scan (pending : List ByteRange) : List Byte → Bool
  | [] => pending.isEmpty
  | b :: rest =>
    match pending with
    | r :: more => inRange r b && utf8Scan more rest
    | [] =>
      match utf8Tail b utf8Rows with
      | some tail => utf8Scan tail rest
      | none => false

/-- The default UTF8_VALID (R126): a concatenation of zero or more sequences, each matching a row of the table. -/
def utf8WellFormed (s : List Byte) : Bool := utf8Scan [] s

end Sys2Proof.Machine

namespace Sys2Proof

/-- UTF8_VALID of a configuration (R8, D15). -/
def Config.utf8Valid (c : Config) (s : List Byte) : Bool :=
  match c.utf8 with
  | .wellFormed => Machine.utf8WellFormed s
  | .other => Config.otherUtf8Valid s

/-- `CheckUtf8(s)` (R127). -/
def Config.checkUtf8 (c : Config) (s : List Byte) : Except Machine.FaultKind Unit :=
  if c.utf8Valid s then .ok () else .error .invalidUtf8

end Sys2Proof
end

