-- ==== Sys2Proof/Machine/Payload.lean ====
section
/-! DEFINITION. Family 42: the four payload decoders and the dispatch that selects one (R142, R160 to R176). Each is a
function of the source, the cursor and what the rule names, and gives a payload with the new cursor, or a fault (R176).
None is fenced in by HDR.length (R147). -/

namespace Sys2Proof.Machine

/-- `ReadU32LE()` (R123). -/
def readU32le (m : Memory) (cur : Nat) : Except FaultKind (BitVec 32 × Nat) := do
  let (b, c) ← m.readAt cur 4
  .ok (u32le b, c)

/-- `DecodeStreamInfo()` (R160): always 34 bytes, whatever the header's length (R161); no field is checked (R162). -/
def decodeStreamInfo (m : Memory) (cur : Nat) : Except FaultKind (StreamInfo × Nat) := do
  let (b, c) ← m.readAt cur 34
  .ok (StreamInfo.ofWord (groupWord 272 b), c)

/-- One record of a SeekTable: `UnpackBE(SEEKPOINT_SCHEMA)` (R164). -/
def decodeSeekPoint (m : Memory) (cur : Nat) : Except FaultKind (SeekPoint × Nat) := do
  let (b, c) ← m.readAt cur 18
  .ok (SeekPoint.ofWord (groupWord 144 b), c)

/-- The record loop of R164: `n` records in payload order. -/
def decodeSeekPoints (m : Memory) : Nat → Nat → Except FaultKind (List SeekPoint × Nat)
  | 0, cur => .ok ([], cur)
  | n + 1, cur => do
    let (p, c) ← decodeSeekPoint m cur
    let (ps, c') ← decodeSeekPoints m n c
    .ok (p :: ps, c')

/-- `DecodeSeekTable()` (R164): the length test comes before any byte of the payload is read (R165). -/
def decodeSeekTable (m : Memory) (length : BitVec 24) (cur : Nat) : Except FaultKind (List SeekPoint × Nat) :=
  if length.toNat % 18 ≠ 0 then .error .seekTableLength
  else decodeSeekPoints m (length.toNat / 18) cur

/-- A length-prefixed string: `ReadU32LE`, `ReadBytes`, `CheckUtf8`, in this order (R124, R127, R171). -/
def readString (cfg : Config) (m : Memory) (cur : Nat) : Except FaultKind (List Byte × Nat) := do
  let (n, c) ← readU32le m cur
  let (b, c') ← m.readAt c n.toNat
  let _ ← cfg.checkUtf8 b
  .ok (b, c')

/-- The comment loop of R168: `n` strings in payload order. -/
def readStrings (cfg : Config) (m : Memory) : Nat → Nat → Except FaultKind (List (List Byte) × Nat)
  | 0, cur => .ok ([], cur)
  | n + 1, cur => do
    let (b, c) ← readString cfg m cur
    let (bs, c') ← readStrings cfg m n c
    .ok (b :: bs, c')

/-- `DecodeVorbisComment()` (R168): steered by its own length fields, never by the header's length (R170). -/
def decodeVorbisComment (cfg : Config) (m : Memory) (cur : Nat) : Except FaultKind (VorbisComment × Nat) := do
  let (vendor, c) ← readString cfg m cur
  let (count, c') ← readU32le m c
  let (comments, c'') ← readStrings cfg m count.toNat c'
  .ok (⟨vendor, comments⟩, c'')

/-- `DecodePadding()` (R175): a seek to the block's end; no byte is read. -/
def decodePadding (m : Memory) (blockEnd : Nat) (length : BitVec 24) : Except FaultKind (BitVec 24 × Nat) := do
  let c ← m.seek blockEnd
  .ok (length, c)

/-- `DecodePayload()` (R142): dispatch on the tag of HDR.block_type. `none` is the outcome Unsupported (R145), with the
cursor where it stands. -/
def State.decodePayload (s : State) : Except FaultKind (Option Payload × Nat) :=
  match typeTag s.hdr.blockType with
  | .streamInfo => do
    let (si, c) ← decodeStreamInfo s.src s.cur
    .ok (some (.streamInfo si), c)
  | .seekTable => do
    let (ps, c) ← decodeSeekTable s.src s.hdr.length s.cur
    .ok (some (.seekTable ps), c)
  | .vorbisComment => do
    let (vc, c) ← decodeVorbisComment s.cfg s.src s.cur
    .ok (some (.vorbisComment vc), c)
  | .padding => do
    let (n, c) ← decodePadding s.src s.blockEnd s.hdr.length
    .ok (some (.padding n), c)
  | .application | .cueSheet | .picture | .reserved _ | .invalid => .ok (none, s.cur)

end Sys2Proof.Machine
end

