-- ==== Sys2Proof/Machine/Blocks.lean ====
section
/-! DEFINITION. Family 41 and the block loop of family 43: one metadata block, from its header to the loop test (R140 to
R148, R193, R194), and the eighteen BLK rows, each this step on its own header. -/

namespace Sys2Proof.Machine

/-- Keep the payload decoder's result: the cursor it left, and, for `Payload(p)`, the block appended with the header exactly
as decoded (R143, R144). -/
def State.keepPayload (s : State) (r : Option Payload) (cur : Nat) : State :=
  match r with
  | some p => { s with cur := cur, blocks := s.blocks ++ [⟨s.hdr, p⟩] }
  | none => { s with cur := cur }

/-- `Resync()` (R146): the cursor forced to the block's declared end, whatever the payload decoder consumed. -/
def State.resync (s : State) : Except FaultKind State := s.seekTo s.blockEnd

/-- `DecodeBlock()` (R143), with whether the outcome was Unsupported. -/
def State.decodeBlock (s : State) (h : BlockHeader) : Except FaultKind (State × Bool) := do
  let s1 ← s.decodeHeader h
  let (r, c) ← s1.decodePayload
  let s2 ← (s1.keepPayload r c).resync
  .ok (s2, r.isNone)

/-- `BlocksStep()` (R193) up to the fault: the block, then the loop test. -/
def State.tryBlocksStep (s : State) (h : BlockHeader) : Except FaultKind State := do
  let (t, unsupported) ← s.decodeBlock h
  .ok (t.loopTest unsupported)

/-- `BlocksStep()` (R193), a fault entered (R226). -/
def State.blocksStep (s : State) (h : BlockHeader) : State := s.orRaise (s.tryBlocksStep h)

/-- BLK.STREAMINFO (R160, R143, R193). -/
def execBlkStreaminfo (isLast : BitVec 1) (length : BitVec 24) (s : State) : Host.Outcome State Fault Refusal :=
  .next (s.blocksStep ⟨isLast, 0#7, length⟩)

/-- BLK.PADDING (R175, R143, R193). -/
def execBlkPadding (isLast : BitVec 1) (length : BitVec 24) (s : State) : Host.Outcome State Fault Refusal :=
  .next (s.blocksStep ⟨isLast, 1#7, length⟩)

/-- BLK.APPLICATION (R145, R143, R193). -/
def execBlkApplication (isLast : BitVec 1) (length : BitVec 24) (s : State) : Host.Outcome State Fault Refusal :=
  .next (s.blocksStep ⟨isLast, 2#7, length⟩)

/-- BLK.SEEKTABLE (R164, R143, R193). -/
def execBlkSeektable (isLast : BitVec 1) (length : BitVec 24) (s : State) : Host.Outcome State Fault Refusal :=
  .next (s.blocksStep ⟨isLast, 3#7, length⟩)

/-- BLK.VORBISCOMMENT (R168, R143, R193). -/
def execBlkVorbiscomment (isLast : BitVec 1) (length : BitVec 24) (s : State) : Host.Outcome State Fault Refusal :=
  .next (s.blocksStep ⟨isLast, 4#7, length⟩)

/-- BLK.CUESHEET (R145, R143, R193). -/
def execBlkCuesheet (isLast : BitVec 1) (length : BitVec 24) (s : State) : Host.Outcome State Fault Refusal :=
  .next (s.blocksStep ⟨isLast, 5#7, length⟩)

/-- BLK.PICTURE (R145, R143, R193). -/
def execBlkPicture (isLast : BitVec 1) (length : BitVec 24) (s : State) : Host.Outcome State Fault Refusal :=
  .next (s.blocksStep ⟨isLast, 6#7, length⟩)

/-- BLK.RESERVED_7 (R145, R143, R193). -/
def execBlkReserved7 (isLast : BitVec 1) (length : BitVec 24) (s : State) : Host.Outcome State Fault Refusal :=
  .next (s.blocksStep ⟨isLast, 7#7, length⟩)

/-- BLK.RESERVED_8_15 (R145, R143, R193). -/
def execBlkReserved8_15 (isLast : BitVec 1) (low : BitVec 3) (length : BitVec 24) (s : State) :
    Host.Outcome State Fault Refusal :=
  .next (s.blocksStep ⟨isLast, 0b0001#4 ++ low, length⟩)

/-- BLK.RESERVED_16_31 (R145, R143, R193). -/
def execBlkReserved16_31 (isLast : BitVec 1) (low : BitVec 4) (length : BitVec 24) (s : State) :
    Host.Outcome State Fault Refusal :=
  .next (s.blocksStep ⟨isLast, 0b001#3 ++ low, length⟩)

/-- BLK.RESERVED_32_63 (R145, R143, R193). -/
def execBlkReserved32_63 (isLast : BitVec 1) (low : BitVec 5) (length : BitVec 24) (s : State) :
    Host.Outcome State Fault Refusal :=
  .next (s.blocksStep ⟨isLast, 0b01#2 ++ low, length⟩)

/-- BLK.RESERVED_64_95 (R145, R143, R193). -/
def execBlkReserved64_95 (isLast : BitVec 1) (low : BitVec 5) (length : BitVec 24) (s : State) :
    Host.Outcome State Fault Refusal :=
  .next (s.blocksStep ⟨isLast, 0b10#2 ++ low, length⟩)

/-- BLK.RESERVED_96_111 (R145, R143, R193). -/
def execBlkReserved96_111 (isLast : BitVec 1) (low : BitVec 4) (length : BitVec 24) (s : State) :
    Host.Outcome State Fault Refusal :=
  .next (s.blocksStep ⟨isLast, 0b110#3 ++ low, length⟩)

/-- BLK.RESERVED_112_119 (R145, R143, R193). -/
def execBlkReserved112_119 (isLast : BitVec 1) (low : BitVec 3) (length : BitVec 24) (s : State) :
    Host.Outcome State Fault Refusal :=
  .next (s.blocksStep ⟨isLast, 0b1110#4 ++ low, length⟩)

/-- BLK.RESERVED_120_123 (R145, R143, R193). -/
def execBlkReserved120_123 (isLast : BitVec 1) (low : BitVec 2) (length : BitVec 24) (s : State) :
    Host.Outcome State Fault Refusal :=
  .next (s.blocksStep ⟨isLast, 0b11110#5 ++ low, length⟩)

/-- BLK.RESERVED_124_125 (R145, R143, R193). -/
def execBlkReserved124_125 (isLast : BitVec 1) (low : BitVec 1) (length : BitVec 24) (s : State) :
    Host.Outcome State Fault Refusal :=
  .next (s.blocksStep ⟨isLast, 0b111110#6 ++ low, length⟩)

/-- BLK.RESERVED_126 (R145, R143, R193). -/
def execBlkReserved126 (isLast : BitVec 1) (length : BitVec 24) (s : State) : Host.Outcome State Fault Refusal :=
  .next (s.blocksStep ⟨isLast, 126#7, length⟩)

/-- BLK.INVALID (R145, R143, R193; it has no fault of its own, D25). -/
def execBlkInvalid (isLast : BitVec 1) (length : BitVec 24) (s : State) : Host.Outcome State Fault Refusal :=
  .next (s.blocksStep ⟨isLast, 127#7, length⟩)

end Sys2Proof.Machine
end

