-- ==== Sys2Proof/Machine/Container.lean ====
section
/-! DEFINITION. Family 43: the signature check (R192) and the look-ups (R196). The block loop is in Blocks.lean, the Frame
step in FrameHeader.lean, START and fault entry in Ops.lean. -/

namespace Sys2Proof.Machine

/-- `ValidateMagic()` (R192): Truncated below 4 bytes, then the exact comparison with MAGIC; `be` of four bytes is equal
exactly when the bytes are. -/
def State.validateMagic (s : State) (sig : Word) : Except FaultKind State := do
  let t ← s.advance 4
  if sig ≠ s.cfg.magic then .error .badSignature
  else .ok { t with phase := .blocks }

/-- MAGIC (R192), a mismatch being the row's "else". -/
def execMagic (sig : Word) (s : State) : Host.Outcome State Fault Refusal :=
  .next (s.orRaise (s.validateMagic sig))

/-- The payload is a StreamInfo. -/
def Payload.isStreamInfo : Payload → Bool
  | .streamInfo _ => true
  | .seekTable _ | .vorbisComment _ | .padding _ => false

/-- The payload is a SeekTable. -/
def Payload.isSeekTable : Payload → Bool
  | .seekTable _ => true
  | .streamInfo _ | .vorbisComment _ | .padding _ => false

/-- The payload is a VorbisComment. -/
def Payload.isVorbisComment : Payload → Bool
  | .vorbisComment _ => true
  | .streamInfo _ | .seekTable _ | .padding _ => false

/-- The least index of a block whose payload is of a kind; "linear scan, first match wins, each optional" (R196, R39). -/
def firstOf (kind : Payload → Bool) : List MetadataBlock → Option Nat
  | [] => none
  | b :: rest => if kind b.payload then some 0 else (firstOf kind rest).map (· + 1)

/-- `Lookups()` (R196). -/
def State.lookups (s : State) : State :=
  { s with
    refStreamInfo := firstOf Payload.isStreamInfo s.blocks
    refSeekTable := firstOf Payload.isSeekTable s.blocks
    refVorbisComment := firstOf Payload.isVorbisComment s.blocks }

end Sys2Proof.Machine
end

