-- ==== Sys2Proof/Machine/FrameHeader.lean ====
section
/-! DEFINITION. Family 44: the frame-header validator (R210 to R214) and the rows of phase Frame, which run the Frame step
and the hand-over of the result (R197). -/

namespace Sys2Proof.Machine

/-- `ValidateFrameHeader()` (R210): Truncated, then SyncMismatch (R212), then ReservedBitSet (R213); the eight raw fields
are delivered (R211) and CUR is advanced by 4. -/
def State.validateFrameHeader (s : State) (f : FrameHeaderRaw) : Except FaultKind (FrameHeaderRaw × State) := do
  let t ← s.advance 4
  if f.sync ≠ syncPattern then .error .syncMismatch
  else if !f.reservedClear then .error .reservedBitSet
  else .ok (f, t)

/-- `FrameStep()` (R197) up to the fault: the look-ups, the validator, FRAME, and STATUS Done as the last write. -/
def State.tryFrameStep (s : State) (f : FrameHeaderRaw) : Except FaultKind State := do
  let (f', t) ← s.lookups.validateFrameHeader f
  .ok { t with frame := some f', status := .done }

/-- `FrameStep()` (R197), a fault entered (R226). -/
def State.frameStep (s : State) (f : FrameHeaderRaw) : State := s.orRaise (s.tryFrameStep f)

/-- FRAMEHDR (R210, R197), and its "else": a bad sync is SyncMismatch (R212). -/
def execFramehdr (f : FrameHeaderRaw) (s : State) : Host.Outcome State Fault Refusal :=
  .next (s.frameStep f)

/-- FRAMEHDR.RESERVED1 (R213): ReservedBitSet, by the validator. -/
def execFramehdrReserved1 (c : FrameCodes) (reserved2 : BitVec 1) (s : State) : Host.Outcome State Fault Refusal :=
  .next (s.frameStep (c.header 1#1 reserved2))

/-- FRAMEHDR.RESERVED2 (R213): ReservedBitSet, by the validator. -/
def execFramehdrReserved2 (reserved1 : BitVec 1) (c : FrameCodes) (s : State) : Host.Outcome State Fault Refusal :=
  .next (s.frameStep (c.header reserved1 1#1))

/-- FMT.FRAMEHDR (R210): the validator alone. The record is returned to the Frame step, which writes FRAME (R197, log 7);
the state written is CUR. -/
def execFmtFramehdr (c : FrameCodes) (s : State) : Host.Outcome State Fault Refusal :=
  .next (s.orRaise ((s.validateFrameHeader (c.header 0#1 0#1)).map Prod.snd))

end Sys2Proof.Machine
end

