-- ==== Sys2Proof/Machine/Dispatch.lean ====
section
/-! DEFINITION. exec: one arm per instruction, each a call of its own meaning. -/

namespace Sys2Proof.Machine

def exec (i : Instr) (s : State) : Host.Outcome State Fault Refusal :=
  match i with
  | .magic sig => Sys2Proof.Machine.execMagic sig s
  | .blkStreaminfo isLast length => Sys2Proof.Machine.execBlkStreaminfo isLast length s
  | .blkPadding isLast length => Sys2Proof.Machine.execBlkPadding isLast length s
  | .blkApplication isLast length => Sys2Proof.Machine.execBlkApplication isLast length s
  | .blkSeektable isLast length => Sys2Proof.Machine.execBlkSeektable isLast length s
  | .blkVorbiscomment isLast length => Sys2Proof.Machine.execBlkVorbiscomment isLast length s
  | .blkCuesheet isLast length => Sys2Proof.Machine.execBlkCuesheet isLast length s
  | .blkPicture isLast length => Sys2Proof.Machine.execBlkPicture isLast length s
  | .blkReserved7 isLast length => Sys2Proof.Machine.execBlkReserved7 isLast length s
  | .blkReserved8_15 isLast low length => Sys2Proof.Machine.execBlkReserved8_15 isLast low length s
  | .blkReserved16_31 isLast low length => Sys2Proof.Machine.execBlkReserved16_31 isLast low length s
  | .blkReserved32_63 isLast low length => Sys2Proof.Machine.execBlkReserved32_63 isLast low length s
  | .blkReserved64_95 isLast low length => Sys2Proof.Machine.execBlkReserved64_95 isLast low length s
  | .blkReserved96_111 isLast low length => Sys2Proof.Machine.execBlkReserved96_111 isLast low length s
  | .blkReserved112_119 isLast low length => Sys2Proof.Machine.execBlkReserved112_119 isLast low length s
  | .blkReserved120_123 isLast low length => Sys2Proof.Machine.execBlkReserved120_123 isLast low length s
  | .blkReserved124_125 isLast low length => Sys2Proof.Machine.execBlkReserved124_125 isLast low length s
  | .blkReserved126 isLast length => Sys2Proof.Machine.execBlkReserved126 isLast length s
  | .blkInvalid isLast length => Sys2Proof.Machine.execBlkInvalid isLast length s
  | .framehdr f => Sys2Proof.Machine.execFramehdr f s
  | .framehdrReserved1 c reserved2 => Sys2Proof.Machine.execFramehdrReserved1 c reserved2 s
  | .framehdrReserved2 reserved1 c => Sys2Proof.Machine.execFramehdrReserved2 reserved1 c s
  | .fmtBlkhdr h => Sys2Proof.Machine.execFmtBlkhdr h s
  | .payStreaminfo si => Sys2Proof.Machine.execPayStreaminfo si s
  | .paySeekpoint p => Sys2Proof.Machine.execPaySeekpoint p s
  | .payU32le v => Sys2Proof.Machine.execPayU32le v s
  | .fmtFramehdr c => Sys2Proof.Machine.execFmtFramehdr c s

end Sys2Proof.Machine
end

