-- ==== Sys2Proof/WellFormed.lean ====
section
/-! DEFINITION. Which instruction terms are words of their row of the opcode table (R93). The operands of a row are the bits
it leaves free, so most terms are well formed by their type; two rows need a check. -/

namespace Sys2Proof

/-- The term is the reading of a word by its own row. FRAMEHDR holds legal words and, as its "else", words with a bad sync:
a good sync with a reserved bit set belongs to FRAMEHDR.RESERVED1 or FRAMEHDR.RESERVED2. A word with both reserved bits set
matches both of those rows (R93) and is read as FRAMEHDR.RESERVED1 (log 8), so FRAMEHDR.RESERVED2 has reserved1 = 0. -/
def Instr.wf : Instr → Bool
  | .framehdr f => f.sync != syncPattern || f.reservedClear
  | .framehdrReserved2 reserved1 _ => reserved1 == 0#1
  | .magic _ | .blkStreaminfo _ _ | .blkPadding _ _ | .blkApplication _ _ | .blkSeektable _ _
  | .blkVorbiscomment _ _ | .blkCuesheet _ _ | .blkPicture _ _ | .blkReserved7 _ _ | .blkReserved8_15 _ _ _
  | .blkReserved16_31 _ _ _ | .blkReserved32_63 _ _ _ | .blkReserved64_95 _ _ _ | .blkReserved96_111 _ _ _
  | .blkReserved112_119 _ _ _ | .blkReserved120_123 _ _ _ | .blkReserved124_125 _ _ _ | .blkReserved126 _ _
  | .blkInvalid _ _ | .framehdrReserved1 _ _ | .fmtBlkhdr _ | .payStreaminfo _ | .paySeekpoint _ | .payU32le _
  | .fmtFramehdr _ => true

end Sys2Proof
end

