-- ==== Sys2Proof/Decode.lean ====
section
/-! DEFINITION. The decoder, from the bytes at the cursor and the context the table selects a row by, and the encoder, from
the same tables (R82 to R89, R93). What stands at the cursor is fixed by position (R81), so decoding takes the context. -/

namespace Sys2Proof

/-- Why bytes are not an instruction. -/
inductive DecodeError where
  /-- Fewer bytes than the format has. -/
  | tooFewBytes
  /-- The fixed bits of FMT.FRAMEHDR are not as the row gives them. -/
  | fixedBits
deriving DecidableEq, Repr

/-- How many bytes a context's format has: 4, 34, 18, 4, 4 (R58). -/
def Context.size : Context → Nat
  | .group .streamInfo => 34
  | .group .seekPoint => 18
  | .element _ | .group .blkhdr | .group .u32le | .group .framehdr => 4

/-- The BLK row of a header, by its type code alone (R86, R93). The rows of several codes fix the code's high bits. -/
def decodeBlkhdr (h : BlockHeader) : Instr :=
  let c := h.blockType
  if c = 0#7 then .blkStreaminfo h.isLast h.length
  else if c = 1#7 then .blkPadding h.isLast h.length
  else if c = 2#7 then .blkApplication h.isLast h.length
  else if c = 3#7 then .blkSeektable h.isLast h.length
  else if c = 4#7 then .blkVorbiscomment h.isLast h.length
  else if c = 5#7 then .blkCuesheet h.isLast h.length
  else if c = 6#7 then .blkPicture h.isLast h.length
  else if c = 7#7 then .blkReserved7 h.isLast h.length
  else if c.extractLsb' 3 4 = 0b0001#4 then .blkReserved8_15 h.isLast (c.extractLsb' 0 3) h.length
  else if c.extractLsb' 4 3 = 0b001#3 then .blkReserved16_31 h.isLast (c.extractLsb' 0 4) h.length
  else if c.extractLsb' 5 2 = 0b01#2 then .blkReserved32_63 h.isLast (c.extractLsb' 0 5) h.length
  else if c.extractLsb' 5 2 = 0b10#2 then .blkReserved64_95 h.isLast (c.extractLsb' 0 5) h.length
  else if c.extractLsb' 4 3 = 0b110#3 then .blkReserved96_111 h.isLast (c.extractLsb' 0 4) h.length
  else if c.extractLsb' 3 4 = 0b1110#4 then .blkReserved112_119 h.isLast (c.extractLsb' 0 3) h.length
  else if c.extractLsb' 2 5 = 0b11110#5 then .blkReserved120_123 h.isLast (c.extractLsb' 0 2) h.length
  else if c.extractLsb' 1 6 = 0b111110#6 then .blkReserved124_125 h.isLast (c.extractLsb' 0 1) h.length
  else if c = 126#7 then .blkReserved126 h.isLast h.length
  else .blkInvalid h.isLast h.length

/-- The row of phase Frame a frame header belongs to (R93); a bad sync is the "else" of FRAMEHDR. -/
def decodeFramehdr (f : FrameHeaderRaw) : Instr :=
  if f.sync = syncPattern then
    if f.reserved1 = 1#1 then .framehdrReserved1 f.codes f.reserved2
    else if f.reserved2 = 1#1 then .framehdrReserved2 f.reserved1 f.codes
    else .framehdr f
  else .framehdr f

/-- The element whose first four bytes are the word `W`, in a phase (R81, R93). Total: every word of every phase is an
element. -/
def decodeWord (p : Phase) (W : Word) : Instr :=
  match p with
  | .magic => .magic W
  | .blocks => decodeBlkhdr (BlockHeader.ofWord W)
  | .frame => decodeFramehdr (FrameHeaderRaw.ofWord W)

/-- The instruction of exactly `ctx.size` bytes. -/
def decodeExact (ctx : Context) (bytes : List Byte) : Except DecodeError Instr :=
  match ctx with
  | .element p => .ok (decodeWord p (groupWord 32 bytes))
  | .group .blkhdr => .ok (.fmtBlkhdr (BlockHeader.ofWord (groupWord 32 bytes)))
  | .group .streamInfo => .ok (.payStreaminfo (StreamInfo.ofWord (groupWord 272 bytes)))
  | .group .seekPoint => .ok (.paySeekpoint (SeekPoint.ofWord (groupWord 144 bytes)))
  | .group .u32le => .ok (.payU32le (u32le bytes))
  | .group .framehdr =>
    let f := FrameHeaderRaw.ofWord (groupWord 32 bytes)
    if f.valid then .ok (.fmtFramehdr f.codes) else .error .fixedBits

/-- The instruction at the head of `bytes` in a context, with the bytes that follow it. -/
def decode (ctx : Context) (bytes : List Byte) : Except DecodeError (Instr × List Byte) :=
  if bytes.length < ctx.size then .error .tooFewBytes
  else match decodeExact ctx (bytes.take ctx.size) with
    | .ok i => .ok (i, bytes.drop ctx.size)
    | .error e => .error e

/-- The header of a BLK row: its type code is the row's fixed bits and the operand's free ones (R86, R93). -/
def Instr.blockHeader : Instr → Option BlockHeader
  | .blkStreaminfo l n => some ⟨l, 0#7, n⟩
  | .blkPadding l n => some ⟨l, 1#7, n⟩
  | .blkApplication l n => some ⟨l, 2#7, n⟩
  | .blkSeektable l n => some ⟨l, 3#7, n⟩
  | .blkVorbiscomment l n => some ⟨l, 4#7, n⟩
  | .blkCuesheet l n => some ⟨l, 5#7, n⟩
  | .blkPicture l n => some ⟨l, 6#7, n⟩
  | .blkReserved7 l n => some ⟨l, 7#7, n⟩
  | .blkReserved8_15 l low n => some ⟨l, 0b0001#4 ++ low, n⟩
  | .blkReserved16_31 l low n => some ⟨l, 0b001#3 ++ low, n⟩
  | .blkReserved32_63 l low n => some ⟨l, 0b01#2 ++ low, n⟩
  | .blkReserved64_95 l low n => some ⟨l, 0b10#2 ++ low, n⟩
  | .blkReserved96_111 l low n => some ⟨l, 0b110#3 ++ low, n⟩
  | .blkReserved112_119 l low n => some ⟨l, 0b1110#4 ++ low, n⟩
  | .blkReserved120_123 l low n => some ⟨l, 0b11110#5 ++ low, n⟩
  | .blkReserved124_125 l low n => some ⟨l, 0b111110#6 ++ low, n⟩
  | .blkReserved126 l n => some ⟨l, 126#7, n⟩
  | .blkInvalid l n => some ⟨l, 127#7, n⟩
  | .magic _ | .framehdr _ | .framehdrReserved1 _ _ | .framehdrReserved2 _ _ | .fmtBlkhdr _ | .payStreaminfo _
  | .paySeekpoint _ | .payU32le _ | .fmtFramehdr _ => none

/-- The frame header of a row of phase Frame. -/
def Instr.frameHeader : Instr → Option FrameHeaderRaw
  | .framehdr f => some f
  | .framehdrReserved1 c reserved2 => some (c.header 1#1 reserved2)
  | .framehdrReserved2 reserved1 c => some (c.header reserved1 1#1)
  | .fmtFramehdr c => some (c.header 0#1 0#1)
  | .magic _ | .blkStreaminfo _ _ | .blkPadding _ _ | .blkApplication _ _ | .blkSeektable _ _
  | .blkVorbiscomment _ _ | .blkCuesheet _ _ | .blkPicture _ _ | .blkReserved7 _ _ | .blkReserved8_15 _ _ _
  | .blkReserved16_31 _ _ _ | .blkReserved32_63 _ _ _ | .blkReserved64_95 _ _ _ | .blkReserved96_111 _ _ _
  | .blkReserved112_119 _ _ _ | .blkReserved120_123 _ _ _ | .blkReserved124_125 _ _ _ | .blkReserved126 _ _
  | .blkInvalid _ _ | .fmtBlkhdr _ | .payStreaminfo _ | .paySeekpoint _ | .payU32le _ => none

/-- The context of an instruction's row (the table's key "context"). -/
def Instr.context : Instr → Context
  | .magic _ => .element .magic
  | .blkStreaminfo _ _ | .blkPadding _ _ | .blkApplication _ _ | .blkSeektable _ _ | .blkVorbiscomment _ _
  | .blkCuesheet _ _ | .blkPicture _ _ | .blkReserved7 _ _ | .blkReserved8_15 _ _ _ | .blkReserved16_31 _ _ _
  | .blkReserved32_63 _ _ _ | .blkReserved64_95 _ _ _ | .blkReserved96_111 _ _ _ | .blkReserved112_119 _ _ _
  | .blkReserved120_123 _ _ _ | .blkReserved124_125 _ _ _ | .blkReserved126 _ _ | .blkInvalid _ _ => .element .blocks
  | .framehdr _ | .framehdrReserved1 _ _ | .framehdrReserved2 _ _ => .element .frame
  | .fmtBlkhdr _ => .group .blkhdr
  | .payStreaminfo _ => .group .streamInfo
  | .paySeekpoint _ => .group .seekPoint
  | .payU32le _ => .group .u32le
  | .fmtFramehdr _ => .group .framehdr

/-- The bytes of an instruction, first byte at the lowest offset (R82 to R85, R87, R89, R92). A BLK row encodes its header;
the payload that follows is the block's own (`blkBytes`). -/
def encode (i : Instr) : List Byte :=
  match i with
  | .magic sig => beBytes 4 sig.toNat
  | .payStreaminfo si => beBytes 34 si.word.toNat
  | .paySeekpoint p => beBytes 18 p.word.toNat
  | .payU32le v => leBytes 4 v.toNat
  | .fmtBlkhdr h => beBytes 4 h.word.toNat
  | .blkStreaminfo _ _ | .blkPadding _ _ | .blkApplication _ _ | .blkSeektable _ _ | .blkVorbiscomment _ _
  | .blkCuesheet _ _ | .blkPicture _ _ | .blkReserved7 _ _ | .blkReserved8_15 _ _ _ | .blkReserved16_31 _ _ _
  | .blkReserved32_63 _ _ _ | .blkReserved64_95 _ _ _ | .blkReserved96_111 _ _ _ | .blkReserved112_119 _ _ _
  | .blkReserved120_123 _ _ _ | .blkReserved124_125 _ _ _ | .blkReserved126 _ _ | .blkInvalid _ _
  | .framehdr _ | .framehdrReserved1 _ _ | .framehdrReserved2 _ _ | .fmtFramehdr _ =>
    match i.blockHeader, i.frameHeader with
    | some h, _ => beBytes 4 h.word.toNat
    | none, some f => beBytes 4 f.word.toNat
    | none, none => []

/-- `BLK last type len { payload }` of R92: a header and the payload bytes, whatever their number. -/
def blkBytes (h : BlockHeader) (payload : List Byte) : List Byte := beBytes 4 h.word.toNat ++ payload

/-- One length-prefixed string of a VorbisComment payload: `u32(LE) len | bytes` (R87). -/
def stringBytes (s : List Byte) : List Byte := leBytes 4 s.length ++ s

/-- `VORBIS "vendor" ["c1", ...]` of R92: the whole VorbisComment payload (R87). -/
def vorbisBytes (vendor : List Byte) (comments : List (List Byte)) : List Byte :=
  stringBytes vendor ++ leBytes 4 comments.length ++ (comments.map stringBytes).flatten

/-- Mask and match of an element row, on the word of the element's first four bytes (R93, spec/opcode_table.json).
MAGIC's match is that of the default MAGIC; the "else" words of MAGIC and FRAMEHDR lie outside their row. -/
def Instr.row : Instr → Option (Word × Word)
  | .magic _ => some (0xFFFFFFFF#32, 0x664C6143#32)
  | .blkStreaminfo _ _ => some (0x7F000000#32, 0x00000000#32)
  | .blkPadding _ _ => some (0x7F000000#32, 0x01000000#32)
  | .blkApplication _ _ => some (0x7F000000#32, 0x02000000#32)
  | .blkSeektable _ _ => some (0x7F000000#32, 0x03000000#32)
  | .blkVorbiscomment _ _ => some (0x7F000000#32, 0x04000000#32)
  | .blkCuesheet _ _ => some (0x7F000000#32, 0x05000000#32)
  | .blkPicture _ _ => some (0x7F000000#32, 0x06000000#32)
  | .blkReserved7 _ _ => some (0x7F000000#32, 0x07000000#32)
  | .blkReserved8_15 _ _ _ => some (0x78000000#32, 0x08000000#32)
  | .blkReserved16_31 _ _ _ => some (0x70000000#32, 0x10000000#32)
  | .blkReserved32_63 _ _ _ => some (0x60000000#32, 0x20000000#32)
  | .blkReserved64_95 _ _ _ => some (0x60000000#32, 0x40000000#32)
  | .blkReserved96_111 _ _ _ => some (0x70000000#32, 0x60000000#32)
  | .blkReserved112_119 _ _ _ => some (0x78000000#32, 0x70000000#32)
  | .blkReserved120_123 _ _ _ => some (0x7C000000#32, 0x78000000#32)
  | .blkReserved124_125 _ _ _ => some (0x7E000000#32, 0x7C000000#32)
  | .blkReserved126 _ _ => some (0x7F000000#32, 0x7E000000#32)
  | .blkInvalid _ _ => some (0x7F000000#32, 0x7F000000#32)
  | .framehdr _ => some (0xFFFE0001#32, 0xFFF80000#32)
  | .framehdrReserved1 _ _ => some (0xFFFE0000#32, 0xFFFA0000#32)
  | .framehdrReserved2 _ _ => some (0xFFFC0001#32, 0xFFF80001#32)
  | .fmtBlkhdr _ | .payStreaminfo _ | .paySeekpoint _ | .payU32le _ | .fmtFramehdr _ => none

/-- The phase a table word is taken in when the table gives no context (log 9): the default signature is MAGIC's, a word
with a good sync is a frame header's, any other is a block header's. -/
def tablePhase (W : Word) : Phase :=
  if W = 0x664C6143#32 then .magic
  else if (FrameHeaderRaw.ofWord W).sync = syncPattern then .frame
  else .blocks

/-- The context a table row's bits are decoded in, by their number: 272 bits are PAY.STREAMINFO's and 144 bits
PAY.SEEKPOINT's, anything else is the 32-bit word of an element (log 9). -/
def tableContext (nbits w : Nat) : Context :=
  if nbits = 272 then .group .streamInfo
  else if nbits = 144 then .group .seekPoint
  else .element (tablePhase (BitVec.ofNat 32 w))

/-- The instruction's bytes as the hardware stores them: bit numbers are those of `W = be(bytes)` (R10, R93). -/
def tableBytes (nbits w : Nat) : List Byte := beBytes (tableContext nbits w).size w

/-- What the decoder reads from an instruction whose bits are `w`. -/
def decodeTableWord (nbits w : Nat) : Option Instr :=
  match decode (tableContext nbits w) (tableBytes nbits w) with
  | .ok (i, _) => some i
  | .error _ => none

end Sys2Proof
end

