-- ==== Sys2Proof/Machine/Fetch.lean ====
section
/-! DEFINITION. Fetching: the four bytes at the cursor, decoded in the phase (R81, R191), and the placing of an instruction
where the next step fetches it. -/

namespace Sys2Proof.Machine

/-- The element at the cursor: the first four bytes of the next element, or Truncated (R52, R81, R191). -/
def State.fetch (s : State) : Except FaultKind Instr :=
  match s.src.read s.cur 4 with
  | .ok b => .ok (decodeWord s.phase (groupWord 32 b))
  | .error k => .error k

/-- Bytes that make the next Blocks or Magic or Frame step run a table row's bits: the element itself, or, for the two
payload formats the table gives more than 32 bits, a block that holds them (log 10). -/
def placedBytes (nbits w : Nat) : List Byte :=
  match tableContext nbits w with
  | .group .streamInfo => blkBytes ⟨0#1, 0#7, 34#24⟩ (tableBytes nbits w)
  | .group .seekPoint => blkBytes ⟨0#1, 3#7, 18#24⟩ (tableBytes nbits w)
  | .element _ | .group .blkhdr | .group .u32le | .group .framehdr => tableBytes nbits w

/-- The phase in which the placed bytes are the next element. -/
def placedPhase (nbits w : Nat) : Phase :=
  match tableContext nbits w with
  | .element p => p
  | .group _ => .blocks

/-- The longest element: a header and the longest payload it can declare (R81). -/
def longestElement : Nat := 4 + 16777215

/-- The source with an element's bytes at an address: what lay below stays, the bytes follow, everything after them reads
00, and the length leaves room for the longest element. Only the host's placing of an instruction uses it: the engine never
writes the source (R51). -/
def Memory.withElement (m : Memory) (addr : Nat) (bytes : List Byte) : Memory where
  cells := m.cells.filter (fun c => decide (c.1 < addr)) ++ cellsFrom addr bytes
  len := max m.len (addr + longestElement)

/-- A machine about to run a table row's bits: they stand at the cursor, the machine is Busy in the row's phase, and the host
is silent (log 10). -/
def State.placed (s : State) (nbits w : Nat) : State :=
  { s with
    status := .busy
    phase := placedPhase nbits w
    src := s.src.withElement s.cur (placedBytes nbits w)
    host := [] }

end Sys2Proof.Machine
end

