-- ==== Sys2Proof/Machine/Engine.lean ====
section
/-! DEFINITION. One step of the engine (R191). -/

namespace Sys2Proof.Machine

/-- While Busy the element at the cursor is fetched in its phase and executed, or Truncated is entered (R191, R120);
otherwise the engine waits for START or reset (R30, R226). -/
def engineStep (s : State) : Host.Outcome State Fault Refusal :=
  match s.status with
  | .busy =>
    match s.fetch with
    | .ok i => exec i s
    | .error k => .next (s.raise k)
  | .idle | .done | .failed => .next s

end Sys2Proof.Machine
end

