-- ==== Sys2Proof/Machine/HostPort.lean ====
section
/-! DEFINITION. The host's side of the interface (R20, R21, R237, R260): its moves, and what it reads. -/

namespace Sys2Proof.Machine

/-- The Container (R30): the result store as the host reads it. -/
structure Container where
  blocks : List MetadataBlock
  refStreamInfo : Option Nat
  refSeekTable : Option Nat
  refVorbisComment : Option Nat
  frame : Option FrameHeaderRaw
deriving DecidableEq, Repr

/-- The result store. -/
def State.container (s : State) : Container :=
  ⟨s.blocks, s.refStreamInfo, s.refSeekTable, s.refVorbisComment, s.frame⟩

/-- The registers SR1 to SR5 (R24). -/
structure RegisterView where
  sr1 : BitVec 6
  sr2 : BitVec 2
  sr3 : Nat
  sr4 : Nat
  sr5 : Word
deriving DecidableEq, Repr

/-- What the host reads besides STATUS (which is `State.sr0`, always readable): the registers and the result store, unless a
parse is running (R22, R44, U10). -/
def State.hostRead (s : State) : Except Refusal (RegisterView × Container) :=
  match s.status with
  | .busy => .error .readWhileBusy
  | .idle | .done | .failed => .ok (⟨s.sr1, s.sr2, s.sr3, s.sr4, s.sr5⟩, s.container)

/-- The effect of a host move other than `nothing`, which leaves the state to the engine. -/
def hostMove (m : HostMove) (s : State) : Host.Outcome State Fault Refusal :=
  match m with
  | .nothing => .next s
  | .start bytes =>
    match s.status with
    | .busy => .next s
    | .idle | .done | .failed => .next (s.start bytes)
  | .readStatus => .next s
  | .readResult =>
    match s.hostRead with
    | .ok _ => .next s
    | .error r => .refused r
  | .reset => .next s.resetEvent
  | .changeSource =>
    match s.status with
    | .busy => .refused .sourceChangedWhileBusy
    | .idle | .done | .failed => .next s
  | .stopAnswering =>
    match s.status with
    | .busy => .fault .unansweredRead
    | .idle | .done | .failed => .next s

end Sys2Proof.Machine
end

