-- ==== Sys2Proof/Machine/Step.lean ====
section
/-! DEFINITION. One step: the next move of the host, or, where the host does nothing, one step of the engine (R20, R191). -/

namespace Sys2Proof.Machine

/-- One step of the machine: the host's next move is taken off its list (log 5). -/
def step (s : State) : Host.Outcome State Fault Refusal :=
  match s.host with
  | [] => engineStep s
  | .nothing :: rest => engineStep { s with host := rest }
  | m :: rest => hostMove m { s with host := rest }

/-- `s` with a table row's bits placed where the very next step fetches and runs them (log 10). -/
def State.withFetchWord (s : State) (nbits w : Nat) : State := s.placed nbits w

end Sys2Proof.Machine
end

