-- ==== Sys2Proof/Machine/Parse.lean ====
section
/-! DEFINITION. The whole parse as one function (R198, R22): total, of the configuration and the source alone (R199). The
sequenced machine of Step.lean is the other reading of the same rules. -/

namespace Sys2Proof.Machine

/-- The answer of a parse (R22, R198). -/
inductive ParseResult where
  | done (container : Container) (stopReason : StopReason) (cur hdrStart : Nat) (hdr : BlockHeader)
  | failed (faultClass : FaultClass) (kind : FaultKind)
deriving DecidableEq, Repr

/-- `Read(4)` as a word at the cursor (R120, R121). -/
def State.wordAt (s : State) : Except FaultKind Word :=
  match s.src.read s.cur 4 with
  | .ok b => .ok (groupWord 32 b)
  | .error k => .error k

/-- The loop of R198, with a bound on the number of blocks; `SRC_LEN div 4` is never exceeded (R45, R199). -/
def parseLoop : Nat → State → Except FaultKind State
  | 0, _ => .error .truncated
  | n + 1, s => do
    let W ← s.wordAt
    let (t, unsupported) ← s.decodeBlock (BlockHeader.ofWord W)
    if unsupported then .ok { t with stopReason := .unsupported }
    else if t.hdr.isLast = 1#1 then .ok { t with stopReason := .lastFlag }
    else parseLoop n t

/-- R198 up to the answer: the signature, the loop, the look-ups, the frame header. -/
def parseState (s : State) : Except FaultKind State := do
  let W ← s.wordAt
  let s1 ← s.validateMagic W
  let s2 ← parseLoop (s.src.len / 4) s1
  let s3 := s2.lookups
  let W' ← s3.wordAt
  let (f, s4) ← s3.validateFrameHeader (FrameHeaderRaw.ofWord W')
  .ok { s4 with frame := some f }

/-- `parse(MAGIC, UTF8_VALID, SRC, SRC_LEN)` (R198). -/
def parse (cfg : Config) (src : List Byte) : ParseResult :=
  match parseState ({ State.reset with cfg := cfg }.start src) with
  | .ok t => .done t.container t.stopReason t.cur t.hdrStart t.hdr
  | .error k => .failed k.faultClass k

/-- The answer a Done or Failed machine holds (R22, R44); none while Idle or Busy. -/
def State.answer (s : State) : Option ParseResult :=
  match s.status, s.errClass, s.errKind with
  | .done, _, _ => some (.done s.container s.stopReason s.cur s.hdrStart s.hdr)
  | .failed, some c, some k => some (.failed c k)
  | _, _, _ => none

end Sys2Proof.Machine
end

