-- ==== Sys2Proof/Safety.lean ====
section
/-! DEFINITION. What a good state is: the validity of the registers and the result store by STATUS (R44) and the invariants
that hold at every step boundary of a parse (R45), as one predicate, `State.Inv`, that every step is to keep. -/

namespace Sys2Proof.Machine

/-- A block that BLOCKS may hold: its payload variant is the one its type code selects (R45 (d)), a Padding keeps the
header's length (R37), a SeekTable has exactly `length div 18` points of a length divisible by 18 (R35), and every string of
a VorbisComment has passed UTF8_VALID (R36). -/
def MetadataBlock.ok (cfg : Config) (b : MetadataBlock) : Bool :=
  match b.payload with
  | .streamInfo _ => b.header.blockType == 0#7
  | .padding n => b.header.blockType == 1#7 && n == b.header.length
  | .seekTable ps => b.header.blockType == 3#7 && b.header.length.toNat == 18 * ps.length
  | .vorbisComment vc =>
    b.header.blockType == 4#7 && cfg.utf8Valid vc.vendor && vc.comments.all cfg.utf8Valid

/-- No fault is recorded (R31: both are 0 whenever STATUS is not Failed). -/
abbrev State.noFault (s : State) : Prop := s.errClass = none ∧ s.errKind = none

/-- The references and FRAME are not written yet (R53). -/
abbrev State.noResult (s : State) : Prop :=
  s.refStreamInfo = none ∧ s.refSeekTable = none ∧ s.refVorbisComment = none ∧ s.frame = none

/-- CUR, HDR_START, HDR, STOP_REASON, PHASE and BLOCKS have their reset values (R43). -/
abbrev State.registersClear (s : State) : Prop :=
  s.cur = 0 ∧ s.hdrStart = 0 ∧ s.hdr = zeroHeader ∧ s.stopReason = .none ∧ s.phase = .magic ∧ s.blocks = []

/-- No block of the list carries the last-flag. -/
abbrev noneLast (blocks : List MetadataBlock) : Prop := ∀ b ∈ blocks, b.header.isLast = 0#1

/-- How the block loop may have ended (R45 (e), R194). -/
abbrev State.loopEnded (s : State) : Prop :=
  (s.stopReason = .lastFlag → s.hdr.isLast = 1#1 ∧ s.blocks.getLast?.map MetadataBlock.header = some s.hdr
      ∧ noneLast s.blocks.dropLast)
  ∧ (s.stopReason = .unsupported → (typeTag s.hdr.blockType).hasDecoder = false ∧ noneLast s.blocks)
  ∧ s.stopReason ≠ .none

/-- While a parse runs (R45, R191). -/
abbrev State.busyInv (s : State) : Prop :=
  s.noFault ∧ s.noResult ∧ s.cur ≤ s.src.len ∧ (∀ b ∈ s.blocks, b.ok s.cfg = true)
  ∧ (s.phase = .magic → s.registersClear)
  ∧ (s.phase = .blocks → s.stopReason = .none ∧ s.cur = s.blockEnd ∧ noneLast s.blocks)
  ∧ (s.phase = .frame → s.loopEnded ∧ s.cur = s.blockEnd)

/-- After a successful parse (R44, R25, R39, R40). -/
abbrev State.doneInv (s : State) : Prop :=
  s.noFault ∧ s.cur = s.blockEnd + 4 ∧ s.cur ≤ s.src.len ∧ (∀ b ∈ s.blocks, b.ok s.cfg = true) ∧ s.loopEnded
  ∧ s.phase = .frame
  ∧ s.refStreamInfo = firstOf Payload.isStreamInfo s.blocks
  ∧ s.refSeekTable = firstOf Payload.isSeekTable s.blocks
  ∧ s.refVorbisComment = firstOf Payload.isVorbisComment s.blocks
  ∧ s.frame.any FrameHeaderRaw.valid = true

/-- After a fault (R44, R226, R31). -/
abbrev State.failedInv (s : State) : Prop :=
  s.errKind ≠ none ∧ s.errClass = s.errKind.map FaultKind.faultClass ∧ s.registersClear ∧ s.noResult

/-- The invariant of the machine: the source in canonical form, and the registers and the result store as R44 and R45 say
for the STATUS the machine is in. -/
abbrev State.Inv (s : State) : Prop :=
  s.src.wf = true
  ∧ (s.status = .idle → s.noFault ∧ s.registersClear ∧ s.noResult)
  ∧ (s.status = .busy → s.busyInv)
  ∧ (s.status = .done → s.doneInv)
  ∧ (s.status = .failed → s.failedInv)

/-- What a block step leaves when nothing in it faults, spelled out (R140, R143, R144, R146, R193): the header kept with its
offset, the cursor at the block's declared end, the block appended if it has a payload, and, on an unsupported type or a
last-flag, the loop ended. `none` is the outcome Unsupported. -/
def State.afterBlock (s : State) (h : BlockHeader) (payload : Option Payload) : State :=
  { s with
    hdrStart := s.cur
    hdr := h
    cur := s.cur + 4 + h.length.toNat
    blocks := match payload with
      | some p => s.blocks ++ [⟨h, p⟩]
      | none => s.blocks
    stopReason := match payload with
      | some _ => if h.isLast = 1#1 then .lastFlag else s.stopReason
      | none => .unsupported
    phase := match payload with
      | some _ => if h.isLast = 1#1 then .frame else s.phase
      | none => .frame }

/-- The faults an instruction can raise (R222, R176 (d)). -/
def Instr.canRaise (i : Instr) : List FaultKind :=
  match i with
  | .magic _ => [.truncated, .badSignature]
  | .blkSeektable _ _ => [.seekTableLength, .truncated]
  | .blkVorbiscomment _ _ => [.truncated, .invalidUtf8]
  | .framehdr _ => [.truncated, .syncMismatch, .reservedBitSet]
  | .framehdrReserved1 _ _ | .framehdrReserved2 _ _ => [.truncated, .reservedBitSet]
  | .blkStreaminfo _ _ | .blkPadding _ _ | .blkApplication _ _ | .blkCuesheet _ _ | .blkPicture _ _
  | .blkReserved7 _ _ | .blkReserved8_15 _ _ _ | .blkReserved16_31 _ _ _ | .blkReserved32_63 _ _ _
  | .blkReserved64_95 _ _ _ | .blkReserved96_111 _ _ _ | .blkReserved112_119 _ _ _ | .blkReserved120_123 _ _ _
  | .blkReserved124_125 _ _ _ | .blkReserved126 _ _ | .blkInvalid _ _ | .fmtBlkhdr _ | .payStreaminfo _
  | .paySeekpoint _ | .payU32le _ | .fmtFramehdr _ => [.truncated]

/-- The thirteen pieces of R24, with the source, the configuration and the host's moves put aside. -/
def State.arch (s : State) : State := { s with src := Memory.empty, cfg := Config.standard, host := [] }

/-- The parse has ended (R30). -/
abbrev State.ended (s : State) : Prop := s.status = .done ∨ s.status = .failed

end Sys2Proof.Machine
end

