-- ==== Sys2Proof/Certificates/Slice0/Obligations.lean ====
section
/-! DEFINITION. The statements for the provers. Each docstring names the rules of spec/ it formalises. A statement about an
instruction holds for every state, reachable or not, unless it says otherwise. -/

open Sys2Proof Sys2Proof.Machine

/-! ### Encodings -/

/-- Decoding the bytes of any well-formed instruction, in its row's context, gives that instruction with every operand, and
leaves what follows (R82 to R85, R89, R92, R93). -/
def Obligations.DecodeEncodeRoundTrip : Prop :=
  ∀ (i : Instr) (rest : List Byte), i.wf = true → decode i.context (encode i ++ rest) = .ok (i, rest)

/-- Every 32-bit word of every phase is read as a well-formed element of that phase, and its encoding is the word's own four
bytes: decoding drops no bit. That words which match no row, a wrong signature and a bad sync, are elements carried by the
rows whose "else" names their fault is the model's (log 19); the spec calls them illegal (R91). That a word with both
reserved bits set is read as FRAMEHDR.RESERVED1 is the model's too (log 8). -/
def Obligations.EncodeDecodedWord : Prop :=
  ∀ (p : Phase) (W : Word), (decodeWord p W).wf = true ∧ (decodeWord p W).context = .element p
    ∧ encode (decodeWord p W) = beBytes 4 W.toNat

/-- In phase Blocks every word matches exactly one row of the opcode table, the decoded instruction's; in phase Frame a word
with a good sync matches the decoded instruction's row (R93). -/
def Obligations.TableRowIsTheDecodedRow : Prop :=
  (∀ W : Word, ∃ mask value, (decodeWord .blocks W).row = some (mask, value) ∧ W &&& mask = value
    ∧ ∀ (i : Instr) (mask' value' : Word), i.context = .element .blocks → i.row = some (mask', value') →
        W &&& mask' = value' → (mask', value') = (mask, value))
  ∧ ∀ W : Word, (FrameHeaderRaw.ofWord W).sync = 0x3FFE#14 →
      ∃ mask value, (decodeWord .frame W).row = some (mask, value) ∧ W &&& mask = value

/-- Words written out from the spec's encodings decode to the instruction they stand for (R82, R86, R89; vectors V41, V44,
S7). The context `decodeTableWord` takes a word in is the model's choice (log 9), and so is that the wrong-case signature of
S7 is carried by the row MAGIC (log 19). -/
def Obligations.SpecWordsDecode : Prop :=
  decodeTableWord 32 0x664C6143 = some (.magic 0x664C6143#32)
  ∧ decodeWord .magic 0x666C6163#32 = .magic 0x666C6163#32
  ∧ decodeTableWord 32 0x80000022 = some (.blkStreaminfo 1#1 34#24)
  ∧ decodeTableWord 32 0x84000028 = some (.blkVorbiscomment 1#1 40#24)
  ∧ decodeTableWord 32 0x03000024 = some (.blkSeektable 0#1 36#24)
  ∧ decodeTableWord 32 0x01000100 = some (.blkPadding 0#1 256#24)
  ∧ decodeTableWord 32 0x06123456 = some (.blkPicture 0#1 1193046#24)
  ∧ decodeTableWord 32 0x0A000002 = some (.blkReserved8_15 0#1 2#3 2#24)
  ∧ decodeTableWord 32 0xFE000000 = some (.blkReserved126 1#1 0#24)
  ∧ decodeTableWord 32 0x7FFFFFFF = some (.blkInvalid 0#1 16777215#24)
  ∧ decodeTableWord 32 0xFFF8C918 = some (.framehdr ⟨0x3FFE#14, 0#1, 0#1, 12#4, 9#4, 1#4, 4#3, 0#1⟩)
  ∧ decodeTableWord 32 0xFFFB0000 = some (.framehdrReserved1 ⟨1#1, 0#4, 0#4, 0#4, 0#3⟩ 0#1)
  ∧ decodeTableWord 32 0xFFF9FFFF = some (.framehdrReserved2 0#1 ⟨1#1, 15#4, 15#4, 15#4, 7#3⟩)

/-- The block header's fields in its four bytes (R83). -/
def Obligations.BlockHeaderBytes : Prop :=
  ∀ b0 b1 b2 b3 : Byte,
    let h := BlockHeader.ofWord (groupWord 32 [b0, b1, b2, b3])
    b0.toNat = h.isLast.toNat * 128 + h.blockType.toNat
    ∧ h.length.toNat = b1.toNat * 65536 + b2.toNat * 256 + b3.toNat

/-- The nine StreamInfo fields at their bit positions in `W = be(bytes)` of any 34 bytes (R84, R160). -/
def Obligations.StreamInfoBitPositions : Prop :=
  ∀ bytes : List Byte, bytes.length = 34 →
    let W := be bytes
    let si := StreamInfo.ofWord (groupWord 272 bytes)
    si.minBlockSize.toNat = W / 2 ^ 256 ∧ si.maxBlockSize.toNat = W / 2 ^ 240 % 2 ^ 16
    ∧ si.minFrameSize.toNat = W / 2 ^ 216 % 2 ^ 24 ∧ si.maxFrameSize.toNat = W / 2 ^ 192 % 2 ^ 24
    ∧ si.sampleRate.toNat = W / 2 ^ 172 % 2 ^ 20 ∧ si.channelsCode.toNat = W / 2 ^ 169 % 2 ^ 3
    ∧ si.bpsCode.toNat = W / 2 ^ 164 % 2 ^ 5 ∧ si.totalSamples.toNat = W / 2 ^ 128 % 2 ^ 36
    ∧ si.md5.toNat = W % 2 ^ 128

/-- The three SeekPoint fields are the big-endian values of bytes 0 to 7, 8 to 15 and 16 to 17 (R85). -/
def Obligations.SeekPointBytes : Prop :=
  ∀ a b c : List Byte, a.length = 8 → b.length = 8 → c.length = 2 →
    let p := SeekPoint.ofWord (groupWord 144 (a ++ b ++ c))
    p.sampleNumber.toNat = be a ∧ p.streamOffset.toNat = be b ∧ p.frameSamples.toNat = be c

/-- The little-endian 32-bit field (R56). -/
def Obligations.LittleEndianField : Prop :=
  ∀ b0 b1 b2 b3 : Byte,
    (u32le [b0, b1, b2, b3]).toNat = b0.toNat + 256 * b1.toNat + 65536 * b2.toNat + 16777216 * b3.toNat

/-- The eight frame-header fields at their bit positions, and the mask and match of the legal words (R89, R214 (b)). -/
def Obligations.FrameHeaderBitPositions : Prop :=
  ∀ W : Word,
    let f := FrameHeaderRaw.ofWord W
    f.sync.toNat = W.toNat / 2 ^ 18 ∧ f.reserved1.toNat = W.toNat / 2 ^ 17 % 2
    ∧ f.blockingStrategy.toNat = W.toNat / 2 ^ 16 % 2 ∧ f.blockSizeCode.toNat = W.toNat / 2 ^ 12 % 16
    ∧ f.sampleRateCode.toNat = W.toNat / 2 ^ 8 % 16 ∧ f.channelCfgCode.toNat = W.toNat / 2 ^ 4 % 16
    ∧ f.sampleSizeCode.toNat = W.toNat / 2 % 8 ∧ f.reserved2.toNat = W.toNat % 2
    ∧ (f.valid = true ↔ W &&& 0xFFFE0001#32 = 0xFFF80000#32)

/-- The default UTF8_VALID accepts exactly the concatenations of sequences that each match a row of the table (R126). -/
def Obligations.Utf8AcceptsExactlyTheTable : Prop :=
  ∀ s : List Byte, Config.standard.utf8Valid s = true ↔
    ∃ seqs : List (List Byte), s = seqs.flatten
      ∧ ∀ q ∈ seqs, ∃ row ∈ utf8Rows, List.Forall₂ (fun r b => inRange r b = true) row q

/-- Exactly the type codes 0, 1, 3 and 4 have a payload decoder (R141, R142, R86). -/
def Obligations.CodesWithADecoder : Prop :=
  ∀ code : BitVec 7, (typeTag code).hasDecoder = true ↔ code = 0#7 ∨ code = 1#7 ∨ code = 3#7 ∨ code = 4#7

/-! ### The source -/

/-- MemRead: all `n` bytes in source order inside the source, Truncated outside (R52). -/
def Obligations.ReadIsAllOrNothing : Prop :=
  ∀ (m : Memory) (addr n : Nat),
    (addr + n ≤ m.len → ∃ b, m.read addr n = .ok b ∧ b.length = n ∧ ∀ i, i < n → b[i]? = some (m.byte (addr + i)))
    ∧ (m.len < addr + n → m.read addr n = .error .truncated)

/-- START's source reads back byte for byte, from offset 0, and has as many bytes as it was given (R50, R21); the sparse
form it is held in is the model's (log 4). -/
def Obligations.SourceHoldsTheBytesGiven : Prop :=
  ∀ bytes : List Byte, (Memory.ofBytes bytes).len = bytes.length
    ∧ ∀ i, (hi : i < bytes.length) → (Memory.ofBytes bytes).byte i = bytes[i]

/-- No instruction and no engine step changes a byte or the length of the source (R51). -/
def Obligations.EngineNeverWritesTheSource : Prop :=
  (∀ (i : Instr) (s t : State), exec i s = .next t → t.src = s.src ∧ ∀ a, t.src.byte a = s.src.byte a)
  ∧ ∀ s t : State, engineStep s = .next t → t.src = s.src ∧ ∀ a, t.src.byte a = s.src.byte a

/-- What each of the four payload decoders consumes: StreamInfo 34 bytes, SeekTable the header's length, VorbisComment what
its own lengths say, and Padding, run right after its header, the header's length, by seeking (R176 (b), R161, R166, R168,
R175). -/
def Obligations.BytesConsumedByPayloadDecoders : Prop :=
  (∀ (m : Memory) (cur c : Nat) (si : StreamInfo), decodeStreamInfo m cur = .ok (si, c) → c = cur + 34)
  ∧ (∀ (m : Memory) (n : BitVec 24) (cur c : Nat) (ps : List SeekPoint),
      decodeSeekTable m n cur = .ok (ps, c) → c = cur + n.toNat ∧ 18 * ps.length = n.toNat)
  ∧ (∀ (cfg : Config) (m : Memory) (cur c : Nat) (vc : VorbisComment),
      decodeVorbisComment cfg m cur = .ok (vc, c) →
        c = cur + 8 + vc.vendor.length + (vc.comments.map (fun s => 4 + s.length)).sum ∧ c ≤ m.len)
  ∧ ∀ (s : State) (n : BitVec 24) (c : Nat), s.cur = s.hdrStart + 4 →
      decodePadding s.src s.blockEnd s.hdr.length = .ok (n, c) →
        c = s.cur + s.hdr.length.toNat ∧ n = s.hdr.length ∧ c ≤ s.src.len

/-! ### The elements -/

/-- MAGIC, whole (R192): accepted, refused, cut short. -/
def Obligations.SignatureCheck : Prop :=
  ∀ (sig : Word) (s : State),
    (s.cur + 4 ≤ s.src.len → sig = s.cfg.magic →
      exec (.magic sig) s = .next { s with cur := s.cur + 4, phase := .blocks })
    ∧ (s.cur + 4 ≤ s.src.len → sig ≠ s.cfg.magic → exec (.magic sig) s = .next (s.raise .badSignature))
    ∧ (s.src.len < s.cur + 4 → exec (.magic sig) s = .next (s.raise .truncated))

/-- BLK.STREAMINFO completes: 34 bytes after the header are decoded whatever the header's length, the block is appended, and
the cursor is forced to the declared end; with fewer than 34 bytes after the header it is Truncated, whatever the header's
length (R160, R161, R143, R146, R193). -/
def Obligations.StreamInfoBlockCompletes : Prop :=
  ∀ (isLast : BitVec 1) (length : BitVec 24) (s : State),
    (s.cur + 38 ≤ s.src.len → s.cur + 4 + length.toNat ≤ s.src.len →
      exec (.blkStreaminfo isLast length) s = .next (s.afterBlock ⟨isLast, 0#7, length⟩
        (some (.streamInfo (StreamInfo.ofWord (groupWord 272 (s.src.bytes (s.cur + 4) 34)))))))
    ∧ (s.src.len < s.cur + 38 → exec (.blkStreaminfo isLast length) s = .next (s.raise .truncated))

/-- BLK.PADDING, whole (R175): no byte is read, only the length is kept; Truncated when the skip passes the end. -/
def Obligations.PaddingBlockSkips : Prop :=
  ∀ (isLast : BitVec 1) (length : BitVec 24) (s : State),
    (s.cur + 4 + length.toNat ≤ s.src.len →
      exec (.blkPadding isLast length) s
        = .next (s.afterBlock ⟨isLast, 1#7, length⟩ (some (.padding length))))
    ∧ (s.src.len < s.cur + 4 + length.toNat → exec (.blkPadding isLast length) s = .next (s.raise .truncated))

/-- BLK.SEEKTABLE completes: `length div 18` records, record `i` from payload bytes `18i` to `18i + 17`, in payload order
(R164, R85, R166, R143, R193). -/
def Obligations.SeekTableBlockCompletes : Prop :=
  ∀ (isLast : BitVec 1) (length : BitVec 24) (s : State),
    length.toNat % 18 = 0 → s.cur + 4 + length.toNat ≤ s.src.len →
      exec (.blkSeektable isLast length) s = .next (s.afterBlock ⟨isLast, 3#7, length⟩
        (some (.seekTable ((List.range (length.toNat / 18)).map fun i =>
          SeekPoint.ofWord (groupWord 144 (s.src.bytes (s.cur + 4 + 18 * i) 18))))))

/-- A SeekTable's length test comes before any byte of the payload is read; with a good length a source that ends inside a
record is Truncated, and no block of the parse is kept (R165). -/
def Obligations.SeekTableLengthTestFirst : Prop :=
  ∀ (isLast : BitVec 1) (length : BitVec 24) (s : State),
    (s.cur + 4 ≤ s.src.len → length.toNat % 18 ≠ 0 →
      exec (.blkSeektable isLast length) s = .next (s.raise .seekTableLength))
    ∧ (length.toNat % 18 = 0 → s.src.len < s.cur + 4 + length.toNat →
      exec (.blkSeektable isLast length) s = .next (s.raise .truncated))
    ∧ FaultKind.seekTableLength.faultClass = .structuralError
    ∧ (s.raise .seekTableLength).blocks = [] ∧ (s.raise .truncated).blocks = []

/-- BLK.VORBISCOMMENT completes on every payload of the format: the vendor and the comments are kept byte for byte and in
order, whatever the header's length says, over-reading included (R168, R169, R170, R87, R36). -/
def Obligations.VorbisCommentBlockCompletes : Prop :=
  ∀ (isLast : BitVec 1) (length : BitVec 24) (s : State) (vendor : List Byte) (comments : List (List Byte)),
    vendor.length < 2 ^ 32 → comments.length < 2 ^ 32 → (∀ c ∈ comments, c.length < 2 ^ 32) →
    s.cfg.utf8Valid vendor = true → (∀ c ∈ comments, s.cfg.utf8Valid c = true) →
    s.cur + 4 + (vorbisBytes vendor comments).length ≤ s.src.len →
    s.src.bytes (s.cur + 4) (vorbisBytes vendor comments).length = vorbisBytes vendor comments →
    s.cur + 4 + length.toNat ≤ s.src.len →
      exec (.blkVorbiscomment isLast length) s = .next (s.afterBlock ⟨isLast, 4#7, length⟩
        (some (.vorbisComment ⟨vendor, comments⟩)))

/-- An invalid vendor string raises InvalidUtf8 before the count is read (R171, R127). -/
def Obligations.InvalidVendorRaises : Prop :=
  ∀ (isLast : BitVec 1) (length : BitVec 24) (s : State) (vendor : List Byte),
    vendor.length < 2 ^ 32 → s.cfg.utf8Valid vendor = false →
    s.cur + 4 + (stringBytes vendor).length ≤ s.src.len →
    s.src.bytes (s.cur + 4) (stringBytes vendor).length = stringBytes vendor →
      exec (.blkVorbiscomment isLast length) s = .next (s.raise .invalidUtf8)

/-- An invalid comment raises InvalidUtf8 after any number of valid ones and before the next length is read (R171, R127). -/
def Obligations.InvalidCommentRaises : Prop :=
  ∀ (isLast : BitVec 1) (length : BitVec 24) (s : State) (vendor bad : List Byte) (good : List (List Byte))
    (count : BitVec 32),
    vendor.length < 2 ^ 32 → bad.length < 2 ^ 32 → (∀ c ∈ good, c.length < 2 ^ 32) →
    s.cfg.utf8Valid vendor = true → (∀ c ∈ good, s.cfg.utf8Valid c = true) → s.cfg.utf8Valid bad = false →
    good.length < count.toNat →
    (let payload := stringBytes vendor ++ leBytes 4 count.toNat ++ (good.map stringBytes).flatten ++ stringBytes bad
     s.cur + 4 + payload.length ≤ s.src.len ∧ s.src.bytes (s.cur + 4) payload.length = payload) →
      exec (.blkVorbiscomment isLast length) s = .next (s.raise .invalidUtf8)

/-- A VorbisComment cut short by the end of the source in its vendor length or in its vendor string is Truncated, whatever
the bytes and whatever the header's length (R168, R123, R124, R127, R228 (a)). -/
def Obligations.CutVendorIsTruncated : Prop :=
  ∀ (isLast : BitVec 1) (length : BitVec 24) (s : State),
    (s.src.len < s.cur + 8 → exec (.blkVorbiscomment isLast length) s = .next (s.raise .truncated))
    ∧ (s.cur + 8 ≤ s.src.len → s.src.len < s.cur + 8 + (u32le (s.src.bytes (s.cur + 4) 4)).toNat →
      exec (.blkVorbiscomment isLast length) s = .next (s.raise .truncated))

/-- A VorbisComment cut short by the end of the source behind a valid vendor string is Truncated, whatever the header's
length: in its comment count, or, after any number of valid comments fewer than the count, in a comment's length or in a
comment's bytes, whatever those are (R168, R123, R124, R127, R228 (a)). -/
def Obligations.CutCommentIsTruncated : Prop :=
  ∀ (isLast : BitVec 1) (length : BitVec 24) (s : State) (vendor : List Byte),
    vendor.length < 2 ^ 32 → s.cfg.utf8Valid vendor = true →
    s.cur + 4 + (stringBytes vendor).length ≤ s.src.len →
    s.src.bytes (s.cur + 4) (stringBytes vendor).length = stringBytes vendor →
      (s.src.len < s.cur + 4 + (stringBytes vendor).length + 4 →
        exec (.blkVorbiscomment isLast length) s = .next (s.raise .truncated))
      ∧ ∀ (good : List (List Byte)) (count : BitVec 32),
        (∀ c ∈ good, c.length < 2 ^ 32) → (∀ c ∈ good, s.cfg.utf8Valid c = true) → good.length < count.toNat →
        let front := stringBytes vendor ++ leBytes 4 count.toNat ++ (good.map stringBytes).flatten
        let here := s.cur + 4 + front.length
        here ≤ s.src.len → s.src.bytes (s.cur + 4) front.length = front →
          (s.src.len < here + 4 → exec (.blkVorbiscomment isLast length) s = .next (s.raise .truncated))
          ∧ (here + 4 ≤ s.src.len → s.src.len < here + 4 + (u32le (s.src.bytes here 4)).toNat →
            exec (.blkVorbiscomment isLast length) s = .next (s.raise .truncated))

/-- The fourteen rows without a payload decoder complete: header kept, nothing appended, no payload byte read, the loop
ended with STOP_REASON Unsupported whatever the last-flag, the cursor at the declared end (R145, R146, R193, R86). -/
def Obligations.UnsupportedBlocksEndTheLoop : Prop :=
  ∀ (l : BitVec 1) (n : BitVec 24) (s : State), s.cur + 4 + n.toNat ≤ s.src.len →
    let after (code : Nat) := Host.Outcome.next (s.afterBlock ⟨l, BitVec.ofNat 7 code, n⟩ none)
    exec (.blkApplication l n) s = after 2 ∧ exec (.blkCuesheet l n) s = after 5 ∧ exec (.blkPicture l n) s = after 6
    ∧ exec (.blkReserved7 l n) s = after 7
    ∧ (∀ low, exec (.blkReserved8_15 l low n) s = after (8 + low.toNat))
    ∧ (∀ low, exec (.blkReserved16_31 l low n) s = after (16 + low.toNat))
    ∧ (∀ low, exec (.blkReserved32_63 l low n) s = after (32 + low.toNat))
    ∧ (∀ low, exec (.blkReserved64_95 l low n) s = after (64 + low.toNat))
    ∧ (∀ low, exec (.blkReserved96_111 l low n) s = after (96 + low.toNat))
    ∧ (∀ low, exec (.blkReserved112_119 l low n) s = after (112 + low.toNat))
    ∧ (∀ low, exec (.blkReserved120_123 l low n) s = after (120 + low.toNat))
    ∧ (∀ low, exec (.blkReserved124_125 l low n) s = after (124 + low.toNat))
    ∧ exec (.blkReserved126 l n) s = after 126 ∧ exec (.blkInvalid l n) s = after 127

/-- A block whose declared payload passes the end of the source ends the parse with a fault, supported or not, whatever its
payload decoder found (R125, R146, R148 (a), R222). -/
def Obligations.OverlongBlockFaults : Prop :=
  ∀ (i : Instr) (h : BlockHeader) (s : State), i.blockHeader = some h → s.src.len < s.cur + 4 + h.length.toNat →
    ∃ k, k ∈ Instr.canRaise i ∧ exec i s = .next (s.raise k)

/-- FRAMEHDR completes on a legal header: the look-ups, FRAME, the cursor past the four bytes, STATUS Done (R197, R210). -/
def Obligations.FrameHeaderAccepted : Prop :=
  ∀ (f : FrameHeaderRaw) (s : State), s.cur + 4 ≤ s.src.len →
    f.sync = 0x3FFE#14 → f.reserved1 = 0#1 → f.reserved2 = 0#1 →
      exec (.framehdr f) s = .next { s with
        refStreamInfo := firstOf Payload.isStreamInfo s.blocks
        refSeekTable := firstOf Payload.isSeekTable s.blocks
        refVorbisComment := firstOf Payload.isVorbisComment s.blocks
        frame := some f
        cur := s.cur + 4
        status := .done }

/-- A bad sync is SyncMismatch, even with a reserved bit set; a good sync with a reserved bit set is ReservedBitSet; fewer
than four bytes are Truncated whatever they hold (R212, R213, R210, R214 (a), R228 (c)). -/
def Obligations.FrameHeaderFaults : Prop :=
  ∀ s : State,
    (s.cur + 4 ≤ s.src.len →
      (∀ f : FrameHeaderRaw, f.sync ≠ 0x3FFE#14 → exec (.framehdr f) s = .next (s.raise .syncMismatch))
      ∧ (∀ (c : FrameCodes) (r2 : BitVec 1), exec (.framehdrReserved1 c r2) s = .next (s.raise .reservedBitSet))
      ∧ (∀ (r1 : BitVec 1) (c : FrameCodes), exec (.framehdrReserved2 r1 c) s = .next (s.raise .reservedBitSet)))
    ∧ (s.src.len < s.cur + 4 →
      (∀ f : FrameHeaderRaw, exec (.framehdr f) s = .next (s.raise .truncated))
      ∧ (∀ (c : FrameCodes) (r2 : BitVec 1), exec (.framehdrReserved1 c r2) s = .next (s.raise .truncated))
      ∧ ∀ (r1 : BitVec 1) (c : FrameCodes), exec (.framehdrReserved2 r1 c) s = .next (s.raise .truncated))

/-- The look-ups find the least index of each kind, and none where there is no such block (R196, R39). -/
def Obligations.LookupsFindTheFirst : Prop :=
  ∀ s : State,
    (∀ i, s.lookups.refStreamInfo = some i ↔
      (∃ h si, s.blocks[i]? = some ⟨h, .streamInfo si⟩) ∧ ∀ j, j < i → ∀ h si, s.blocks[j]? ≠ some ⟨h, .streamInfo si⟩)
    ∧ (∀ i, s.lookups.refSeekTable = some i ↔
      (∃ h ps, s.blocks[i]? = some ⟨h, .seekTable ps⟩) ∧ ∀ j, j < i → ∀ h ps, s.blocks[j]? ≠ some ⟨h, .seekTable ps⟩)
    ∧ (∀ i, s.lookups.refVorbisComment = some i ↔
      (∃ h vc, s.blocks[i]? = some ⟨h, .vorbisComment vc⟩)
        ∧ ∀ j, j < i → ∀ h vc, s.blocks[j]? ≠ some ⟨h, .vorbisComment vc⟩)

/-! ### The field groups -/

/-- The five field groups complete with the state their rules write: CUR past the group's bytes, and for the block header
HDR_START and HDR (R140, R160, R164, R123, R210, R120). That the group's value goes to the step that asked is the model's
reading of "return" (log 7). -/
def Obligations.FieldGroupsComplete : Prop :=
  ∀ s : State,
    (∀ h, s.cur + 4 ≤ s.src.len →
      exec (.fmtBlkhdr h) s = .next { s with hdrStart := s.cur, hdr := h, cur := s.cur + 4 })
    ∧ (∀ si, s.cur + 34 ≤ s.src.len → exec (.payStreaminfo si) s = .next { s with cur := s.cur + 34 })
    ∧ (∀ p, s.cur + 18 ≤ s.src.len → exec (.paySeekpoint p) s = .next { s with cur := s.cur + 18 })
    ∧ (∀ v, s.cur + 4 ≤ s.src.len → exec (.payU32le v) s = .next { s with cur := s.cur + 4 })
    ∧ (∀ c, s.cur + 4 ≤ s.src.len → exec (.fmtFramehdr c) s = .next { s with cur := s.cur + 4 })

/-- A field group cut short by the end of the source is Truncated (R120, R121, R123). -/
def Obligations.FieldGroupsTruncated : Prop :=
  ∀ s : State,
    (∀ h, s.src.len < s.cur + 4 → exec (.fmtBlkhdr h) s = .next (s.raise .truncated))
    ∧ (∀ si, s.src.len < s.cur + 34 → exec (.payStreaminfo si) s = .next (s.raise .truncated))
    ∧ (∀ p, s.src.len < s.cur + 18 → exec (.paySeekpoint p) s = .next (s.raise .truncated))
    ∧ (∀ v, s.src.len < s.cur + 4 → exec (.payU32le v) s = .next (s.raise .truncated))
    ∧ (∀ c, s.src.len < s.cur + 4 → exec (.fmtFramehdr c) s = .next (s.raise .truncated))

/-- What the payload decoders read is what the field groups decode: the record or count of the group at the cursor, with the
cursor past its bytes (R160, R164, R123, R93). -/
def Obligations.PayloadDecodersUseTheFieldGroups : Prop :=
  ∀ (m : Memory) (cur : Nat),
    (cur + 34 ≤ m.len → ∃ si, decode (.group .streamInfo) (m.bytes cur 34) = .ok (.payStreaminfo si, [])
      ∧ decodeStreamInfo m cur = .ok (si, cur + 34))
    ∧ (cur + 18 ≤ m.len → ∃ p, decode (.group .seekPoint) (m.bytes cur 18) = .ok (.paySeekpoint p, [])
      ∧ decodeSeekPoint m cur = .ok (p, cur + 18))
    ∧ (cur + 4 ≤ m.len → ∃ v, decode (.group .u32le) (m.bytes cur 4) = .ok (.payU32le v, [])
      ∧ readU32le m cur = .ok (v, cur + 4))

/-- Decoding a header makes SR5 the header's own word, whatever its bits, SR4 its offset and SR3 the offset after it
(R24, R27, R26, R140). -/
def Obligations.HeaderRegisters : Prop :=
  ∀ (W : Word) (s : State), s.cur + 4 ≤ s.src.len →
    ∃ t, exec (.fmtBlkhdr (BlockHeader.ofWord W)) s = .next t ∧ t.sr5 = W ∧ t.sr4 = s.cur ∧ t.sr3 = s.cur + 4

/-- A StreamInfo block is its two field groups one after the other, then the append, the resynchronisation and the loop test:
the record PAY.STREAMINFO decodes is the one the block step stores (R143, R140, R142, R160). -/
def Obligations.StreamInfoBlockIsItsFieldGroups : Prop :=
  ∀ (l : BitVec 1) (n : BitVec 24) (si : StreamInfo) (s t1 t2 : State),
    s.cur + 38 ≤ s.src.len → s.cur + 4 + n.toNat ≤ s.src.len →
    exec (.fmtBlkhdr ⟨l, 0#7, n⟩) s = .next t1 →
    decode (.group .streamInfo) (t1.src.bytes t1.cur 34) = .ok (.payStreaminfo si, []) →
    exec (.payStreaminfo si) t1 = .next t2 →
      exec (.blkStreaminfo l n) s = .next (State.loopTest { t2 with
        blocks := t2.blocks ++ [⟨t2.hdr, .streamInfo si⟩]
        cur := t2.hdrStart + 4 + t2.hdr.length.toNat } false)

/-! ### Frames: what an instruction leaves unchanged -/

/-- Every BLK row, when no fault is entered: HDR_START, HDR and CUR are what the header says, wherever the payload decoder
left the cursor, and never below the header's end (R146, R148 (a), R60, R26, R27). -/
def Obligations.BlockStepResynchronises : Prop :=
  ∀ (i : Instr) (h : BlockHeader) (s t : State), i.blockHeader = some h → exec i s = .next t →
    (∃ k ∈ Instr.canRaise i, t = s.raise k)
    ∨ (t.hdrStart = s.cur ∧ t.hdr = h ∧ t.cur = s.cur + 4 + h.length.toNat ∧ t.cur ≤ s.src.len)

/-- Every BLK row, when no fault is entered, leaves STATUS, the error registers, the references, FRAME, the source (every
byte), the configuration and the host's moves as they were; BLOCKS gains exactly one block, with the header as decoded, if
the type code has a decoder, and nothing otherwise; STOP_REASON and PHASE change only when the loop ends (R143, R144, R145,
R148 (b), R193). -/
def Obligations.BlockStepFrame : Prop :=
  ∀ (i : Instr) (h : BlockHeader) (s t : State), i.blockHeader = some h → exec i s = .next t →
    (∃ k, t = s.raise k)
    ∨ (t.status = s.status ∧ t.errClass = s.errClass ∧ t.errKind = s.errKind
      ∧ t.refStreamInfo = s.refStreamInfo ∧ t.refSeekTable = s.refSeekTable ∧ t.refVorbisComment = s.refVorbisComment
      ∧ t.frame = s.frame ∧ t.src = s.src ∧ (∀ a, t.src.byte a = s.src.byte a) ∧ t.cfg = s.cfg ∧ t.host = s.host
      ∧ ((typeTag h.blockType).hasDecoder = true → ∃ p, t.blocks = s.blocks ++ [⟨h, p⟩])
      ∧ ((typeTag h.blockType).hasDecoder = false → t.blocks = s.blocks ∧ t.stopReason = .unsupported ∧ t.phase = .frame)
      ∧ ((typeTag h.blockType).hasDecoder = true → h.isLast = 1#1 → t.stopReason = .lastFlag ∧ t.phase = .frame)
      ∧ ((typeTag h.blockType).hasDecoder = true → h.isLast = 0#1 → t.stopReason = s.stopReason ∧ t.phase = s.phase))

/-- MAGIC, the rows of phase Frame and the field groups, when no fault is entered: what each leaves unchanged. None touches
BLOCKS, STOP_REASON, the error registers or a byte of the source; only a Frame row writes STATUS, FRAME and the references,
only MAGIC writes PHASE, only FMT.BLKHDR writes HDR and HDR_START (R192, R197, R140, R120, R53). -/
def Obligations.OtherElementsFrame : Prop :=
  ∀ (i : Instr) (s t : State), i.blockHeader = none → exec i s = .next t →
    (∃ k, t = s.raise k)
    ∨ (t.blocks = s.blocks ∧ t.stopReason = s.stopReason ∧ t.errClass = s.errClass ∧ t.errKind = s.errKind
      ∧ t.src = s.src ∧ (∀ a, t.src.byte a = s.src.byte a) ∧ t.cfg = s.cfg ∧ t.host = s.host ∧ s.cur ≤ t.cur
      ∧ (i.context ≠ .element .frame → t.status = s.status ∧ t.frame = s.frame ∧ t.refStreamInfo = s.refStreamInfo
          ∧ t.refSeekTable = s.refSeekTable ∧ t.refVorbisComment = s.refVorbisComment)
      ∧ (i.context ≠ .element .magic → t.phase = s.phase)
      ∧ (i.context ≠ .group .blkhdr → t.hdr = s.hdr ∧ t.hdrStart = s.hdrStart))

/-- Padding and unsupported payloads are not read: with any other source of the same length the step does the same
(R59, R145, R175). -/
def Obligations.SkippedPayloadsAreNotRead : Prop :=
  ∀ (i : Instr) (h : BlockHeader) (s t : State) (m : Memory), i.blockHeader = some h →
    h.blockType ≠ 0#7 → h.blockType ≠ 3#7 → h.blockType ≠ 4#7 → m.len = s.src.len → exec i s = .next t →
      exec i { s with src := m } = .next { t with src := m }

/-- The faults each element can raise, and no other (R222, R176 (d)). -/
def Obligations.FaultsByElement : Prop :=
  ∀ (i : Instr) (s t : State), s.status ≠ .failed → exec i s = .next t → t.status = .failed →
    ∃ k ∈ Instr.canRaise i, t = s.raise k

/-! ### Faults, START, reset, the host -/

/-- Fault entry, whole (R226): class and kind recorded, every other register and the result store at their reset values,
STATUS Failed; and the engine takes no further step. -/
def Obligations.FaultEntry : Prop :=
  ∀ (s : State) (k : FaultKind),
    (s.raise k).arch = { State.reset with status := .failed, errClass := some k.faultClass, errKind := some k }
    ∧ engineStep (s.raise k) = .next (s.raise k)

/-- The codes of the fault table, as SR1 shows them after the fault (R221, R31). That bit 3 of SR1
reads 0 is the model's (log 11). -/
def Obligations.FaultCodes : Prop :=
  ∀ s : State,
    (s.raise .badSignature).sr1 = 0b010001#6 ∧ (s.raise .syncMismatch).sr1 = 0b010010#6
    ∧ (s.raise .reservedBitSet).sr1 = 0b010011#6 ∧ (s.raise .seekTableLength).sr1 = 0b010100#6
    ∧ (s.raise .truncated).sr1 = 0b010101#6 ∧ (s.raise .invalidUtf8).sr1 = 0b100110#6

/-- The values of the status registers SR0 and SR2: STATUS is 0 Idle, 1 Busy, 2 Done, 3 Failed (R30), and STOP_REASON is
0 None, 1 LastFlag, 2 Unsupported (R28); the register numbers are those of R24. -/
def Obligations.StatusRegisterCodes : Prop :=
  ∀ s : State,
    ((s.status = .idle ↔ s.sr0 = 0#2) ∧ (s.status = .busy ↔ s.sr0 = 1#2)
      ∧ (s.status = .done ↔ s.sr0 = 2#2) ∧ (s.status = .failed ↔ s.sr0 = 3#2))
    ∧ (s.stopReason = .none ↔ s.sr2 = 0#2) ∧ (s.stopReason = .lastFlag ↔ s.sr2 = 1#2)
      ∧ (s.stopReason = .unsupported ↔ s.sr2 = 2#2)

/-- The state after reset (R43). -/
def Obligations.ResetValues : Prop :=
  State.reset.status = .idle ∧ State.reset.errClass = none ∧ State.reset.errKind = none
  ∧ State.reset.stopReason = .none ∧ State.reset.cur = 0 ∧ State.reset.hdrStart = 0
  ∧ State.reset.hdr = ⟨0#1, 0#7, 0#24⟩ ∧ State.reset.phase = .magic ∧ State.reset.blocks = []
  ∧ State.reset.refStreamInfo = none ∧ State.reset.refSeekTable = none ∧ State.reset.refVorbisComment = none
  ∧ State.reset.frame = none

/-- START, accepted unless Busy: every piece of state at its reset value except STATUS, the source taken whole; while Busy it
has no effect (R190, R21). The list of the host's moves is the model's (log 5). -/
def Obligations.StartBeginsAParse : Prop :=
  ∀ (s : State) (bytes : List Byte) (rest : List HostMove), s.host = .start bytes :: rest →
    (s.status ≠ .busy → step s = .next { State.reset with
      status := .busy, src := Memory.ofBytes bytes, cfg := s.cfg, host := rest })
    ∧ (s.status = .busy → step s = .next { s with host := rest })

/-- Nothing of an earlier parse survives START: from any two machines that are not Busy, of one configuration, the same
command gives the same machine (R190, R199 (a), R42). The list of the host's moves is the model's (log 5). -/
def Obligations.StartForgetsEarlierParses : Prop :=
  ∀ (s1 s2 : State) (bytes : List Byte) (rest : List HostMove),
    s1.status ≠ .busy → s2.status ≠ .busy → s1.cfg = s2.cfg →
    s1.host = .start bytes :: rest → s2.host = .start bytes :: rest → step s1 = step s2

/-- Reset, at any time and in any STATUS: the thirteen pieces of state take their reset values (R260). That the configuration
and the host's further moves stay is the model's (log 5, log 13). -/
def Obligations.ResetEvent : Prop :=
  ∀ (s : State) (rest : List HostMove), s.host = .reset :: rest →
    ∃ t, step s = .next t ∧ t.arch = State.reset.arch ∧ t.cfg = s.cfg ∧ t.host = rest

/-- While Busy the host can read nothing but STATUS; otherwise it reads the registers and the result store as they are. A
status read is taken in every STATUS and changes nothing (R22, R237). That a result read while Busy is a refusal is the
treatment of U10 (log 15); the list of the host's moves is the model's (log 5). -/
def Obligations.NoReadWhileBusy : Prop :=
  ∀ (s : State) (rest : List HostMove),
    (s.status = .busy → s.hostRead = .error .readWhileBusy)
    ∧ (s.status ≠ .busy → s.hostRead = .ok (⟨s.sr1, s.sr2, s.sr3, s.sr4, s.sr5⟩, s.container))
    ∧ (s.host = .readResult :: rest → s.status = .busy → step s = .refused .readWhileBusy)
    ∧ (s.host = .readResult :: rest → s.status ≠ .busy → step s = .next { s with host := rest })
    ∧ (s.host = .readStatus :: rest → step s = .next { s with host := rest })

/-- Between parses nothing but START and reset changes the machine: status, registers and result store are stable (R44, R30,
R229). The list of the host's moves is the model's (log 5). -/
def Obligations.StableUntilStartOrReset : Prop :=
  ∀ s : State, s.status ≠ .busy →
    (s.host = [] → step s = .next s)
    ∧ ∀ (m : HostMove) (rest : List HostMove), s.host = m :: rest → m ≠ .reset → (∀ b, m ≠ .start b) →
        step s = .next { s with host := rest }

/-- What the host must not do while Busy stops the model by name: a changed source is refused (R263, U9), a source that no
longer answers leaves the engine stuck (U12); when no parse runs both are without effect (log 15). -/
def Obligations.HostStopsWhileBusy : Prop :=
  ∀ (s : State) (rest : List HostMove),
    (s.status = .busy →
      (s.host = .changeSource :: rest → step s = .refused .sourceChangedWhileBusy)
      ∧ (s.host = .stopAnswering :: rest → step s = .fault .unansweredRead))
    ∧ (s.status ≠ .busy → s.host = .changeSource :: rest ∨ s.host = .stopAnswering :: rest →
        step s = .next { s with host := rest })

/-- STATUS changes only as R30 says: reset gives Idle, START gives Busy, and while Busy the end of the parse gives Done or
Failed. The list of the host's moves is the model's (log 5). -/
def Obligations.StatusTransitions : Prop :=
  ∀ s t : State, step s = .next t → t.status ≠ s.status →
    (t.status = .idle ∧ s.host.head? = some .reset)
    ∨ (t.status = .busy ∧ s.status ≠ .busy ∧ ∃ bytes, s.host.head? = some (.start bytes))
    ∨ (s.status = .busy ∧ (t.status = .done ∨ t.status = .failed) ∧ (s.host = [] ∨ s.host.head? = some .nothing))

/-! ### The machine -/

/-- A step runs the decoded instruction: while Busy, with the host silent, the four bytes at the cursor, decoded in the
phase, are executed; when the host's next move is `nothing` it is taken off the list first. The list of the host's moves is
the model's (log 5). -/
def Obligations.StepRunsTheDecodedElement : Prop :=
  ∀ (s : State) (i : Instr) (rest : List HostMove), s.status = .busy → s.cur + 4 ≤ s.src.len →
    decode (.element s.phase) (s.src.bytes s.cur 4) = .ok (i, []) →
      (s.host = [] → step s = exec i s) ∧ (s.host = .nothing :: rest → step s = exec i { s with host := rest })

/-- Where fewer than four bytes remain at the cursor, a step of the engine enters Truncated, in every phase (R120, R140, R192,
R214 (a)). -/
def Obligations.StepWithoutFourBytesIsTruncated : Prop :=
  ∀ s : State, s.status = .busy → s.host = [] → s.src.len < s.cur + 4 → step s = .next (s.raise .truncated)

/-- The invariant of R44 and R45 holds after reset. -/
def Obligations.InvHoldsAtReset : Prop := State.reset.Inv

/-- Every step keeps the invariant of R44 and R45: the source's canonical form, the cursor inside the source and at the block's
end, the blocks' types, payloads and last-flags, the references and the frame header at Done, everything cleared at Failed.
The canonical form is the model's (log 4), and so is PHASE at Done (log 12). -/
def Obligations.StepKeepsInv : Prop := ∀ s t : State, s.Inv → step s = .next t → t.Inv

/-- A parse ends: from any state in which a parse runs, with the host silent, at most `SRC_LEN div 4 + 1` steps lead to Done
or Failed (R45 (c), R199 (a)). A step is one element (R191, log 6). -/
def Obligations.ParseEnds : Prop :=
  ∀ s : State, s.status = .busy → s.host = [] →
    ∃ k t, k ≤ s.src.len / 4 + 1 ∧ Host.Core.run core k s = .next t ∧ (t.status = .done ∨ t.status = .failed)

/-- The steps compute the function `parse`: START with any source, from any machine that is not Busy, leads to the answer of
R198 in at most `SRC_LEN div 4 + 2` steps (R22, R191, R198). That START is the head of a list is the model's (log 5), and so is the
bound on the turns of `parse`'s loop, `SRC_LEN div 4`, which the statement shows never to matter (log 20). -/
def Obligations.StepsComputeParse : Prop :=
  ∀ (s : State) (bytes : List Byte), s.status ≠ .busy → s.host = [.start bytes] →
    ∃ k t, k ≤ bytes.length / 4 + 2 ∧ Host.Core.run core k s = .next t ∧ t.answer = some (parse s.cfg bytes)

/-- No source of fewer than twelve bytes parses (R199 (b)). -/
def Obligations.ShortSourcesFail : Prop :=
  ∀ (cfg : Config) (src : List Byte), src.length < 12 → ∃ c k, parse cfg src = .failed c k
end

