-- ==== Sys2Proof/Laws/Memory.lean ====
section
/-! SUPPORT. The source: every operation that makes one keeps the canonical form, and what a read answers. -/

namespace Sys2Proof.Machine

theorem cellsWf_mono {len low low' : Nat} {cells : List Host.Cell} (h : low' ≤ low) (hw : cellsWf len low cells = true) :
    cellsWf len low' cells = true := by
  cases cells with
  | nil => rfl
  | cons c rest =>
    simp only [cellsWf, Bool.and_eq_true, decide_eq_true_eq] at hw ⊢
    exact ⟨⟨⟨h.trans hw.1.1.1, hw.1.1.2⟩, hw.1.2⟩, hw.2⟩

theorem cellsWf_longer {len len' low : Nat} {cells : List Host.Cell} (h : len ≤ len') (hw : cellsWf len low cells = true) :
    cellsWf len' low cells = true := by
  induction cells generalizing low with
  | nil => rfl
  | cons c rest ih =>
    simp only [cellsWf, Bool.and_eq_true, decide_eq_true_eq] at hw ⊢
    exact ⟨⟨⟨hw.1.1.1, hw.1.1.2.trans_le h⟩, hw.1.2⟩, ih hw.2⟩

theorem cellsFrom_wf (a len : Nat) (bytes : List Byte) (h : a + bytes.length ≤ len) :
    cellsWf len a (cellsFrom a bytes) = true := by
  induction bytes generalizing a with
  | nil => rfl
  | cons v rest ih =>
    simp only [List.length_cons] at h
    have hr := ih (a + 1) (by omega)
    by_cases hv : v = 0#8
    · simpa [cellsFrom, hv] using cellsWf_mono (Nat.le_succ a) hr
    · simpa [cellsFrom, hv, cellsWf, hr] using (by omega : a < len)

/-- START's source is in canonical form. -/
theorem Memory.ofBytes_wf (bytes : List Byte) : (Memory.ofBytes bytes).wf = true :=
  cellsFrom_wf 0 _ bytes (by simp [Memory.ofBytes])

@[simp] theorem Memory.ofBytes_len (bytes : List Byte) : (Memory.ofBytes bytes).len = bytes.length := rfl

theorem Memory.empty_wf : Memory.empty.wf = true := rfl

theorem cellsWf_filter {len low : Nat} {cells : List Host.Cell} (p : Host.Cell → Bool)
    (hw : cellsWf len low cells = true) : cellsWf len low (cells.filter p) = true := by
  induction cells generalizing low with
  | nil => rfl
  | cons c rest ih =>
    simp only [cellsWf, Bool.and_eq_true, decide_eq_true_eq] at hw
    by_cases hp : p c = true
    · simp only [List.filter_cons, hp, if_true, cellsWf, Bool.and_eq_true, decide_eq_true_eq]
      exact ⟨hw.1, ih hw.2⟩
    · simpa [List.filter_cons, hp] using cellsWf_mono (by omega) (ih hw.2)

theorem cellsWf_append {len low mid : Nat} {xs ys : List Host.Cell} (hx : cellsWf len low xs = true)
    (hm : ∀ c ∈ xs, c.1 < mid) (hl : low ≤ mid) (hy : cellsWf len mid ys = true) :
    cellsWf len low (xs ++ ys) = true := by
  induction xs generalizing low with
  | nil => exact cellsWf_mono hl hy
  | cons c rest ih =>
    simp only [List.cons_append, cellsWf, Bool.and_eq_true, decide_eq_true_eq] at hx ⊢
    exact ⟨hx.1, ih hx.2 (fun d hd => hm d (by simp [hd])) (hm c (by simp))⟩

/-- Placing an instruction keeps the canonical form. -/
theorem Memory.withElement_wf {m : Memory} (a : Nat) (bytes : List Byte) (hb : bytes.length ≤ longestElement)
    (hw : m.wf = true) : (m.withElement a bytes).wf = true := by
  refine cellsWf_append (mid := a) (cellsWf_longer (Nat.le_max_left _ _) (cellsWf_filter _ hw)) (fun c hc => ?_)
    (Nat.zero_le a) (cellsFrom_wf a _ bytes ?_)
  · simpa using (List.mem_filter.1 hc).2
  · exact le_trans (Nat.add_le_add_left hb a) (Nat.le_max_right _ _)

/-- No cell at or above `low` lies below it. -/
theorem cellAt_below {len low a : Nat} {cells : List Host.Cell} (hw : cellsWf len low cells = true) (h : a < low) :
    cellAt cells a = 0#8 := by
  induction cells generalizing low with
  | nil => rfl
  | cons c rest ih =>
    simp only [cellsWf, Bool.and_eq_true, decide_eq_true_eq] at hw
    have hne : c.1 ≠ a := by omega
    simpa [cellAt, hne] using ih hw.2 (by omega)

@[simp] theorem Memory.bytes_length (m : Memory) (a n : Nat) : (m.bytes a n).length = n := by
  induction n generalizing a with
  | zero => rfl
  | succ n ih => simp [Memory.bytes, ih]

/-- MemRead answers exactly inside the source (R52). -/
theorem Memory.read_eq_ok {m : Memory} {a n : Nat} {b : List Byte} :
    m.read a n = .ok b ↔ a + n ≤ m.len ∧ b = m.bytes a n := by
  unfold Memory.read; split_ifs with h <;> simp [h, eq_comm]

theorem Memory.read_eq_error {m : Memory} {a n : Nat} {k : FaultKind} :
    m.read a n = .error k ↔ m.len < a + n ∧ k = .truncated := by
  unfold Memory.read; split_ifs with h
  · simp; omega
  · simp [eq_comm]; omega

/-- `Read(n)` moves the cursor by exactly `n`, inside the source (R120). -/
theorem Memory.readAt_eq_ok {m : Memory} {cur n : Nat} {b : List Byte} {c : Nat} :
    m.readAt cur n = .ok (b, c) ↔ cur + n ≤ m.len ∧ b = m.bytes cur n ∧ c = cur + n := by
  unfold Memory.readAt Memory.read; split_ifs with h <;> simp [h, eq_comm]

theorem Memory.readAt_eq_error {m : Memory} {cur n : Nat} {k : FaultKind} :
    m.readAt cur n = .error k ↔ m.len < cur + n ∧ k = .truncated := by
  unfold Memory.readAt Memory.read; split_ifs with h
  · simp; omega
  · simp [eq_comm]; omega

theorem Memory.seek_eq_ok {m : Memory} {target c : Nat} : m.seek target = .ok c ↔ target ≤ m.len ∧ c = target := by
  unfold Memory.seek; split_ifs with h <;> simp [eq_comm] <;> omega

theorem Memory.bytes_append (m : Memory) (a n k : Nat) : m.bytes a (n + k) = m.bytes a n ++ m.bytes (a + n) k := by
  induction n generalizing a with
  | zero => simp [Memory.bytes]
  | succ n ih =>
    rw [show n + 1 + k = (n + k) + 1 by omega]
    simp only [Memory.bytes, ih, List.cons_append]
    rw [show a + 1 + n = a + (n + 1) by omega]

/-- Bytes laid down one string after the other are read one string after the other. -/
theorem Memory.bytes_split {m : Memory} {a : Nat} {x y : List Byte} (h : m.bytes a (x ++ y).length = x ++ y) :
    m.bytes a x.length = x ∧ m.bytes (a + x.length) y.length = y := by
  rw [List.length_append, Memory.bytes_append] at h
  exact List.append_inj h (by simp)

end Sys2Proof.Machine
end

