-- ==== Sys2Proof/Laws/State.lean ====
section
/-! SUPPORT. What each update of the state leaves in each field: one lemma per field and update, so that no later proof
unfolds a record update. -/

namespace Sys2Proof.Machine

variable (s : State)

/-! ### raise (R226) -/

@[simp] theorem State.raise_status (k : FaultKind) : (s.raise k).status = .failed := rfl
@[simp] theorem State.raise_errClass (k : FaultKind) : (s.raise k).errClass = some k.faultClass := rfl
@[simp] theorem State.raise_errKind (k : FaultKind) : (s.raise k).errKind = some k := rfl
@[simp] theorem State.raise_stopReason (k : FaultKind) : (s.raise k).stopReason = .none := rfl
@[simp] theorem State.raise_cur (k : FaultKind) : (s.raise k).cur = 0 := rfl
@[simp] theorem State.raise_hdrStart (k : FaultKind) : (s.raise k).hdrStart = 0 := rfl
@[simp] theorem State.raise_hdr (k : FaultKind) : (s.raise k).hdr = zeroHeader := rfl
@[simp] theorem State.raise_phase (k : FaultKind) : (s.raise k).phase = .magic := rfl
@[simp] theorem State.raise_blocks (k : FaultKind) : (s.raise k).blocks = [] := rfl
@[simp] theorem State.raise_refStreamInfo (k : FaultKind) : (s.raise k).refStreamInfo = none := rfl
@[simp] theorem State.raise_refSeekTable (k : FaultKind) : (s.raise k).refSeekTable = none := rfl
@[simp] theorem State.raise_refVorbisComment (k : FaultKind) : (s.raise k).refVorbisComment = none := rfl
@[simp] theorem State.raise_frame (k : FaultKind) : (s.raise k).frame = none := rfl
@[simp] theorem State.raise_src (k : FaultKind) : (s.raise k).src = s.src := rfl
@[simp] theorem State.raise_cfg (k : FaultKind) : (s.raise k).cfg = s.cfg := rfl
@[simp] theorem State.raise_host (k : FaultKind) : (s.raise k).host = s.host := rfl

/-! ### start (R190) -/

@[simp] theorem State.start_status (bytes : List Byte) : (s.start bytes).status = .busy := rfl
@[simp] theorem State.start_errClass (bytes : List Byte) : (s.start bytes).errClass = none := rfl
@[simp] theorem State.start_errKind (bytes : List Byte) : (s.start bytes).errKind = none := rfl
@[simp] theorem State.start_stopReason (bytes : List Byte) : (s.start bytes).stopReason = .none := rfl
@[simp] theorem State.start_cur (bytes : List Byte) : (s.start bytes).cur = 0 := rfl
@[simp] theorem State.start_hdrStart (bytes : List Byte) : (s.start bytes).hdrStart = 0 := rfl
@[simp] theorem State.start_hdr (bytes : List Byte) : (s.start bytes).hdr = zeroHeader := rfl
@[simp] theorem State.start_phase (bytes : List Byte) : (s.start bytes).phase = .magic := rfl
@[simp] theorem State.start_blocks (bytes : List Byte) : (s.start bytes).blocks = [] := rfl
@[simp] theorem State.start_refStreamInfo (bytes : List Byte) : (s.start bytes).refStreamInfo = none := rfl
@[simp] theorem State.start_refSeekTable (bytes : List Byte) : (s.start bytes).refSeekTable = none := rfl
@[simp] theorem State.start_refVorbisComment (bytes : List Byte) : (s.start bytes).refVorbisComment = none := rfl
@[simp] theorem State.start_frame (bytes : List Byte) : (s.start bytes).frame = none := rfl
@[simp] theorem State.start_src (bytes : List Byte) : (s.start bytes).src = Memory.ofBytes bytes := rfl
@[simp] theorem State.start_cfg (bytes : List Byte) : (s.start bytes).cfg = s.cfg := rfl
@[simp] theorem State.start_host (bytes : List Byte) : (s.start bytes).host = s.host := rfl

/-! ### resetEvent (R260) -/

@[simp] theorem State.resetEvent_status : (s.resetEvent).status = .idle := rfl
@[simp] theorem State.resetEvent_errClass : (s.resetEvent).errClass = none := rfl
@[simp] theorem State.resetEvent_errKind : (s.resetEvent).errKind = none := rfl
@[simp] theorem State.resetEvent_stopReason : (s.resetEvent).stopReason = .none := rfl
@[simp] theorem State.resetEvent_cur : (s.resetEvent).cur = 0 := rfl
@[simp] theorem State.resetEvent_hdrStart : (s.resetEvent).hdrStart = 0 := rfl
@[simp] theorem State.resetEvent_hdr : (s.resetEvent).hdr = zeroHeader := rfl
@[simp] theorem State.resetEvent_phase : (s.resetEvent).phase = .magic := rfl
@[simp] theorem State.resetEvent_blocks : (s.resetEvent).blocks = [] := rfl
@[simp] theorem State.resetEvent_refStreamInfo : (s.resetEvent).refStreamInfo = none := rfl
@[simp] theorem State.resetEvent_refSeekTable : (s.resetEvent).refSeekTable = none := rfl
@[simp] theorem State.resetEvent_refVorbisComment : (s.resetEvent).refVorbisComment = none := rfl
@[simp] theorem State.resetEvent_frame : (s.resetEvent).frame = none := rfl
@[simp] theorem State.resetEvent_src : (s.resetEvent).src = Memory.empty := rfl
@[simp] theorem State.resetEvent_cfg : (s.resetEvent).cfg = s.cfg := rfl
@[simp] theorem State.resetEvent_host : (s.resetEvent).host = s.host := rfl

/-! ### lookups (R196) -/

@[simp] theorem State.lookups_status : (s.lookups).status = s.status := rfl
@[simp] theorem State.lookups_errClass : (s.lookups).errClass = s.errClass := rfl
@[simp] theorem State.lookups_errKind : (s.lookups).errKind = s.errKind := rfl
@[simp] theorem State.lookups_stopReason : (s.lookups).stopReason = s.stopReason := rfl
@[simp] theorem State.lookups_cur : (s.lookups).cur = s.cur := rfl
@[simp] theorem State.lookups_hdrStart : (s.lookups).hdrStart = s.hdrStart := rfl
@[simp] theorem State.lookups_hdr : (s.lookups).hdr = s.hdr := rfl
@[simp] theorem State.lookups_phase : (s.lookups).phase = s.phase := rfl
@[simp] theorem State.lookups_blocks : (s.lookups).blocks = s.blocks := rfl
@[simp] theorem State.lookups_refStreamInfo : (s.lookups).refStreamInfo = firstOf Payload.isStreamInfo s.blocks := rfl
@[simp] theorem State.lookups_refSeekTable : (s.lookups).refSeekTable = firstOf Payload.isSeekTable s.blocks := rfl
@[simp] theorem State.lookups_refVorbisComment : (s.lookups).refVorbisComment = firstOf Payload.isVorbisComment s.blocks := rfl
@[simp] theorem State.lookups_frame : (s.lookups).frame = s.frame := rfl
@[simp] theorem State.lookups_src : (s.lookups).src = s.src := rfl
@[simp] theorem State.lookups_cfg : (s.lookups).cfg = s.cfg := rfl
@[simp] theorem State.lookups_host : (s.lookups).host = s.host := rfl

/-! ### keepPayload (R143) -/

@[simp] theorem State.keepPayload_status (r : Option Payload) (c : Nat) : (s.keepPayload r c).status = s.status := by cases r <;> simp [State.keepPayload]
@[simp] theorem State.keepPayload_errClass (r : Option Payload) (c : Nat) : (s.keepPayload r c).errClass = s.errClass := by cases r <;> simp [State.keepPayload]
@[simp] theorem State.keepPayload_errKind (r : Option Payload) (c : Nat) : (s.keepPayload r c).errKind = s.errKind := by cases r <;> simp [State.keepPayload]
@[simp] theorem State.keepPayload_stopReason (r : Option Payload) (c : Nat) : (s.keepPayload r c).stopReason = s.stopReason := by cases r <;> simp [State.keepPayload]
@[simp] theorem State.keepPayload_cur (r : Option Payload) (c : Nat) : (s.keepPayload r c).cur = c := by cases r <;> simp [State.keepPayload]
@[simp] theorem State.keepPayload_hdrStart (r : Option Payload) (c : Nat) : (s.keepPayload r c).hdrStart = s.hdrStart := by cases r <;> simp [State.keepPayload]
@[simp] theorem State.keepPayload_hdr (r : Option Payload) (c : Nat) : (s.keepPayload r c).hdr = s.hdr := by cases r <;> simp [State.keepPayload]
@[simp] theorem State.keepPayload_phase (r : Option Payload) (c : Nat) : (s.keepPayload r c).phase = s.phase := by cases r <;> simp [State.keepPayload]
@[simp] theorem State.keepPayload_blocks (r : Option Payload) (c : Nat) : (s.keepPayload r c).blocks = s.blocks ++ (r.map (MetadataBlock.mk s.hdr)).toList := by cases r <;> simp [State.keepPayload]
@[simp] theorem State.keepPayload_refStreamInfo (r : Option Payload) (c : Nat) : (s.keepPayload r c).refStreamInfo = s.refStreamInfo := by cases r <;> simp [State.keepPayload]
@[simp] theorem State.keepPayload_refSeekTable (r : Option Payload) (c : Nat) : (s.keepPayload r c).refSeekTable = s.refSeekTable := by cases r <;> simp [State.keepPayload]
@[simp] theorem State.keepPayload_refVorbisComment (r : Option Payload) (c : Nat) : (s.keepPayload r c).refVorbisComment = s.refVorbisComment := by cases r <;> simp [State.keepPayload]
@[simp] theorem State.keepPayload_frame (r : Option Payload) (c : Nat) : (s.keepPayload r c).frame = s.frame := by cases r <;> simp [State.keepPayload]
@[simp] theorem State.keepPayload_src (r : Option Payload) (c : Nat) : (s.keepPayload r c).src = s.src := by cases r <;> simp [State.keepPayload]
@[simp] theorem State.keepPayload_cfg (r : Option Payload) (c : Nat) : (s.keepPayload r c).cfg = s.cfg := by cases r <;> simp [State.keepPayload]
@[simp] theorem State.keepPayload_host (r : Option Payload) (c : Nat) : (s.keepPayload r c).host = s.host := by cases r <;> simp [State.keepPayload]

/-! ### loopTest (R193) -/

@[simp] theorem State.loopTest_status (u : Bool) : (s.loopTest u).status = s.status := by unfold State.loopTest; split_ifs <;> rfl
@[simp] theorem State.loopTest_errClass (u : Bool) : (s.loopTest u).errClass = s.errClass := by unfold State.loopTest; split_ifs <;> rfl
@[simp] theorem State.loopTest_errKind (u : Bool) : (s.loopTest u).errKind = s.errKind := by unfold State.loopTest; split_ifs <;> rfl
@[simp] theorem State.loopTest_stopReason (u : Bool) : (s.loopTest u).stopReason = if u then .unsupported else if s.hdr.isLast = 1#1 then .lastFlag else s.stopReason := by unfold State.loopTest; split_ifs <;> rfl
@[simp] theorem State.loopTest_cur (u : Bool) : (s.loopTest u).cur = s.cur := by unfold State.loopTest; split_ifs <;> rfl
@[simp] theorem State.loopTest_hdrStart (u : Bool) : (s.loopTest u).hdrStart = s.hdrStart := by unfold State.loopTest; split_ifs <;> rfl
@[simp] theorem State.loopTest_hdr (u : Bool) : (s.loopTest u).hdr = s.hdr := by unfold State.loopTest; split_ifs <;> rfl
@[simp] theorem State.loopTest_phase (u : Bool) : (s.loopTest u).phase = if u then .frame else if s.hdr.isLast = 1#1 then .frame else s.phase := by unfold State.loopTest; split_ifs <;> rfl
@[simp] theorem State.loopTest_blocks (u : Bool) : (s.loopTest u).blocks = s.blocks := by unfold State.loopTest; split_ifs <;> rfl
@[simp] theorem State.loopTest_refStreamInfo (u : Bool) : (s.loopTest u).refStreamInfo = s.refStreamInfo := by unfold State.loopTest; split_ifs <;> rfl
@[simp] theorem State.loopTest_refSeekTable (u : Bool) : (s.loopTest u).refSeekTable = s.refSeekTable := by unfold State.loopTest; split_ifs <;> rfl
@[simp] theorem State.loopTest_refVorbisComment (u : Bool) : (s.loopTest u).refVorbisComment = s.refVorbisComment := by unfold State.loopTest; split_ifs <;> rfl
@[simp] theorem State.loopTest_frame (u : Bool) : (s.loopTest u).frame = s.frame := by unfold State.loopTest; split_ifs <;> rfl
@[simp] theorem State.loopTest_src (u : Bool) : (s.loopTest u).src = s.src := by unfold State.loopTest; split_ifs <;> rfl
@[simp] theorem State.loopTest_cfg (u : Bool) : (s.loopTest u).cfg = s.cfg := by unfold State.loopTest; split_ifs <;> rfl
@[simp] theorem State.loopTest_host (u : Bool) : (s.loopTest u).host = s.host := by unfold State.loopTest; split_ifs <;> rfl

end Sys2Proof.Machine
end

