-- ==== Sys2Proof/Laws/Ops.lean ====
section
/-! SUPPORT. One lemma per shared operation that says everything it can do; the provers cite these instead of unfolding. -/

namespace Sys2Proof.Machine

variable {s t : State} {k : FaultKind}

@[simp] theorem State.orRaise_ok (s t : State) : s.orRaise (.ok t) = t := rfl
@[simp] theorem State.orRaise_error (s : State) (k : FaultKind) : s.orRaise (.error k) = s.raise k := rfl

/-- An operation either gave its state, or its fault was entered. -/
theorem State.orRaise_cases (s : State) (r : Except FaultKind State) :
    r = .ok (s.orRaise r) ∨ ∃ k, r = .error k ∧ s.orRaise r = s.raise k := by
  cases r with
  | ok t => exact .inl rfl
  | error k => exact .inr ⟨k, rfl, rfl⟩

theorem State.advance_eq_ok {n : Nat} :
    s.advance n = .ok t ↔ s.cur + n ≤ s.src.len ∧ t = { s with cur := s.cur + n } := by
  unfold State.advance; split_ifs with h <;> simp [h, eq_comm]

theorem State.advance_eq_error {n : Nat} : s.advance n = .error k ↔ s.src.len < s.cur + n ∧ k = .truncated := by
  unfold State.advance
  split_ifs with h
  · simp; omega
  · simp [eq_comm]; omega

theorem State.seekTo_eq_ok {target : Nat} :
    s.seekTo target = .ok t ↔ target ≤ s.src.len ∧ t = { s with cur := target } := by
  unfold State.seekTo Memory.seek
  split_ifs with h
  · simp; omega
  · simp [eq_comm]; omega

theorem State.seekTo_eq_error {target : Nat} :
    s.seekTo target = .error k ↔ s.src.len < target ∧ k = .truncated := by
  unfold State.seekTo Memory.seek
  split_ifs with h
  · simp [eq_comm]; omega
  · simp; omega

theorem State.resync_eq_ok :
    s.resync = .ok t ↔ s.blockEnd ≤ s.src.len ∧ t = { s with cur := s.blockEnd } := State.seekTo_eq_ok

theorem State.resync_eq_error : s.resync = .error k ↔ s.src.len < s.blockEnd ∧ k = .truncated :=
  State.seekTo_eq_error

theorem State.decodeHeader_eq_ok {h : BlockHeader} :
    s.decodeHeader h = .ok t ↔
      s.cur + 4 ≤ s.src.len ∧ t = { s with cur := s.cur + 4, hdrStart := s.cur, hdr := h } := by
  unfold State.decodeHeader State.advance
  split_ifs with hc <;> simp [hc, eq_comm]

theorem State.decodeHeader_eq_error {h : BlockHeader} :
    s.decodeHeader h = .error k ↔ s.src.len < s.cur + 4 ∧ k = .truncated := by
  unfold State.decodeHeader State.advance
  split_ifs with hc
  · simp; omega
  · simp [eq_comm]; omega

theorem State.validateMagic_eq_ok {sig : Word} :
    s.validateMagic sig = .ok t ↔
      s.cur + 4 ≤ s.src.len ∧ sig = s.cfg.magic ∧ t = { s with cur := s.cur + 4, phase := .blocks } := by
  unfold State.validateMagic State.advance
  by_cases hc : s.cur + 4 ≤ s.src.len <;> by_cases hm : sig = s.cfg.magic <;>
    simp [hc, hm, bind, Except.bind, eq_comm]

theorem State.validateFrameHeader_eq_ok {f f' : FrameHeaderRaw} :
    s.validateFrameHeader f = .ok (f', t) ↔
      s.cur + 4 ≤ s.src.len ∧ f.valid = true ∧ f' = f ∧ t = { s with cur := s.cur + 4 } := by
  unfold State.validateFrameHeader State.advance FrameHeaderRaw.valid
  by_cases hc : s.cur + 4 ≤ s.src.len <;> by_cases hs : f.sync = syncPattern <;>
    by_cases hr : f.reservedClear = true <;>
    simp only [hc, hs, hr, bind, Except.bind, if_true, if_false, ne_eq, not_true_eq_false, not_false_eq_true,
      Bool.not_true, Bool.not_false, Bool.false_eq_true, beq_self_eq_true, Bool.and_self, Bool.and_true,
      reduceCtorEq, false_iff, false_and, true_and, Except.ok.injEq, Prod.mk.injEq]
  all_goals first | (constructor <;> rintro ⟨rfl, rfl⟩ <;> exact ⟨rfl, rfl⟩) | simp_all

theorem State.tryFrameStep_eq_ok {f : FrameHeaderRaw} :
    s.tryFrameStep f = .ok t ↔
      s.cur + 4 ≤ s.src.len ∧ f.valid = true
        ∧ t = { s.lookups with cur := s.cur + 4, frame := some f, status := .done } := by
  unfold State.tryFrameStep
  cases hv : s.lookups.validateFrameHeader f with
  | error k =>
    simp only [bind, Except.bind, reduceCtorEq, false_iff]
    rintro ⟨h1, h2, -⟩
    have hok := (State.validateFrameHeader_eq_ok (s := s.lookups) (f := f)).2 ⟨h1, h2, rfl, rfl⟩
    rw [hok] at hv
    exact absurd hv (by simp)
  | ok p =>
    obtain ⟨f', u⟩ := p
    obtain ⟨h1, h2, rfl, rfl⟩ := State.validateFrameHeader_eq_ok.1 hv
    simp only [bind, Except.bind, Except.ok.injEq]
    constructor
    · rintro rfl; exact ⟨h1, h2, rfl⟩
    · rintro ⟨-, -, rfl⟩; rfl

end Sys2Proof.Machine
end

