-- ==== Sys2Proof/Laws/Blocks.lean ====
section
/-! SUPPORT. What a payload decoder and a whole block step can do (R142 to R148, R176, R193). -/

namespace Sys2Proof.Machine

variable {s t : State} {k : FaultKind} {h : BlockHeader}

/-- A record loop that answers read its records one after the other, 18 bytes each (R164). -/
theorem decodeSeekPoints_ok {m : Memory} {n cur c : Nat} {ps : List SeekPoint}
    (hd : decodeSeekPoints m n cur = .ok (ps, c)) :
    ps.length = n ∧ c = cur + 18 * n ∧ (n = 0 ∨ c ≤ m.len) := by
  induction n generalizing cur ps c with
  | zero =>
    simp only [decodeSeekPoints, Except.ok.injEq, Prod.mk.injEq] at hd
    simp [← hd.1, ← hd.2]
  | succ n ih =>
    simp only [decodeSeekPoints, decodeSeekPoint, bind, Except.bind] at hd
    cases hr : m.readAt cur 18 with
    | error k => simp [hr] at hd
    | ok p =>
      obtain ⟨b, c1⟩ := p
      simp only [hr] at hd
      obtain ⟨hle, -, rfl⟩ := Memory.readAt_eq_ok.1 hr
      cases hn : decodeSeekPoints m n (cur + 18) with
      | error k => simp [hn] at hd
      | ok q =>
        obtain ⟨qs, c2⟩ := q
        simp only [hn, Except.ok.injEq, Prod.mk.injEq] at hd
        obtain ⟨rfl, rfl⟩ := hd
        obtain ⟨h1, h2, h3⟩ := ih hn
        refine ⟨by simp [h1], by omega, .inr ?_⟩
        omega

/-- A string that is read has passed UTF8_VALID (R127). -/
theorem readString_ok {cfg : Config} {m : Memory} {cur c : Nat} {b : List Byte}
    (hd : readString cfg m cur = .ok (b, c)) : cfg.utf8Valid b = true ∧ cur + 4 ≤ c ∧ c ≤ m.len := by
  simp only [readString, readU32le, bind, Except.bind] at hd
  cases h1 : m.readAt cur 4 with
  | error k => simp [h1] at hd
  | ok p =>
    obtain ⟨b1, c1⟩ := p
    simp only [h1] at hd
    obtain ⟨-, -, rfl⟩ := Memory.readAt_eq_ok.1 h1
    cases h2 : m.readAt (cur + 4) (u32le b1).toNat with
    | error k => simp [h2] at hd
    | ok q =>
      obtain ⟨b2, c2⟩ := q
      simp only [h2, Config.checkUtf8] at hd
      obtain ⟨hle, -, rfl⟩ := Memory.readAt_eq_ok.1 h2
      by_cases hu : cfg.utf8Valid b2 = true
      · simp only [hu, if_true, Except.ok.injEq, Prod.mk.injEq] at hd
        obtain ⟨rfl, rfl⟩ := hd
        exact ⟨hu, by omega, hle⟩
      · simp [hu] at hd

theorem readStrings_ok {cfg : Config} {m : Memory} {n cur c : Nat} {bs : List (List Byte)}
    (hd : readStrings cfg m n cur = .ok (bs, c)) : bs.length = n ∧ bs.all cfg.utf8Valid = true := by
  induction n generalizing cur bs c with
  | zero =>
    simp only [readStrings, Except.ok.injEq, Prod.mk.injEq] at hd
    simp [← hd.1]
  | succ n ih =>
    simp only [readStrings, bind, Except.bind] at hd
    cases hr : readString cfg m cur with
    | error k => simp [hr] at hd
    | ok p =>
      simp only [hr] at hd
      cases hn : readStrings cfg m n p.2 with
      | error k => simp [hn] at hd
      | ok q =>
        simp only [hn, Except.ok.injEq, Prod.mk.injEq] at hd
        obtain ⟨rfl, -⟩ := hd
        obtain ⟨h1, h2⟩ := ih hn
        exact ⟨by simp [h1], by simp [h2, (readString_ok hr).1]⟩

theorem decodeVorbisComment_ok {cfg : Config} {m : Memory} {cur c : Nat} {vc : VorbisComment}
    (hd : decodeVorbisComment cfg m cur = .ok (vc, c)) :
    cfg.utf8Valid vc.vendor = true ∧ vc.comments.all cfg.utf8Valid = true := by
  simp only [decodeVorbisComment, readU32le, bind, Except.bind] at hd
  cases h1 : readString cfg m cur with
  | error k => simp [h1] at hd
  | ok p =>
    simp only [h1] at hd
    cases h2 : m.readAt p.2 4 with
    | error k => simp [h2] at hd
    | ok q =>
      simp only [h2] at hd
      cases h3 : readStrings cfg m (u32le q.1).toNat q.2 with
      | error k => simp [h3] at hd
      | ok r =>
        simp only [h3, Except.ok.injEq, Prod.mk.injEq] at hd
        obtain ⟨rfl, -⟩ := hd
        exact ⟨(readString_ok h1).1, (readStrings_ok h3).2⟩

/-- The table length test that passed (R164, R166). -/
theorem decodeSeekTable_ok {m : Memory} {length : BitVec 24} {cur c : Nat} {ps : List SeekPoint}
    (hd : decodeSeekTable m length cur = .ok (ps, c)) : length.toNat = 18 * ps.length ∧ c = cur + length.toNat := by
  unfold decodeSeekTable at hd
  split_ifs at hd with hm
  obtain ⟨h1, h2, -⟩ := decodeSeekPoints_ok hd
  omega

/-- The tag's code: TypeTag read backwards (R141). -/
theorem typeTag_eq {code : BitVec 7} :
    (typeTag code = .streamInfo ↔ code = 0#7) ∧ (typeTag code = .padding ↔ code = 1#7)
      ∧ (typeTag code = .seekTable ↔ code = 3#7) ∧ (typeTag code = .vorbisComment ↔ code = 4#7) := by
  unfold typeTag
  split_ifs <;> simp_all

/-- A payload the dispatch returned is the header's variant, as R35 to R38 say; no payload means a tag without a decoder,
and the cursor untouched (R142, R145). -/
theorem State.decodePayload_ok {r : Option Payload} {c : Nat} (hd : s.decodePayload = .ok (r, c)) :
    (∀ p ∈ r, (⟨s.hdr, p⟩ : MetadataBlock).ok s.cfg = true) ∧ (typeTag s.hdr.blockType).hasDecoder = r.isSome
      ∧ (r = none → c = s.cur) := by
  unfold State.decodePayload at hd
  have tags := typeTag_eq (code := s.hdr.blockType)
  cases ht : typeTag s.hdr.blockType with
  | streamInfo =>
    simp only [ht, bind, Except.bind] at hd
    cases h1 : decodeStreamInfo s.src s.cur with
    | error k => simp [h1] at hd
    | ok p =>
      simp only [h1, Except.ok.injEq, Prod.mk.injEq] at hd
      obtain ⟨rfl, -⟩ := hd
      simp [MetadataBlock.ok, Tag.hasDecoder, tags.1.1 ht]
  | seekTable =>
    simp only [ht, bind, Except.bind] at hd
    cases h1 : decodeSeekTable s.src s.hdr.length s.cur with
    | error k => simp [h1] at hd
    | ok p =>
      obtain ⟨ps, c1⟩ := p
      simp only [h1, Except.ok.injEq, Prod.mk.injEq] at hd
      obtain ⟨rfl, -⟩ := hd
      simp [MetadataBlock.ok, Tag.hasDecoder, tags.2.2.1.1 ht, (decodeSeekTable_ok h1).1]
  | vorbisComment =>
    simp only [ht, bind, Except.bind] at hd
    cases h1 : decodeVorbisComment s.cfg s.src s.cur with
    | error k => simp [h1] at hd
    | ok p =>
      obtain ⟨vc, c1⟩ := p
      simp only [h1, Except.ok.injEq, Prod.mk.injEq] at hd
      obtain ⟨rfl, -⟩ := hd
      obtain ⟨hv, hc⟩ := decodeVorbisComment_ok h1
      simpa [MetadataBlock.ok, Tag.hasDecoder, tags.2.2.2.1 ht, hv] using hc
  | padding =>
    simp only [ht, decodePadding, bind, Except.bind] at hd
    cases h1 : s.src.seek s.blockEnd with
    | error k => simp [h1] at hd
    | ok p =>
      simp only [h1, Except.ok.injEq, Prod.mk.injEq] at hd
      obtain ⟨rfl, -⟩ := hd
      simp [MetadataBlock.ok, Tag.hasDecoder, tags.2.1.1 ht]
  | application | cueSheet | picture | reserved | invalid =>
    simp only [ht, Except.ok.injEq, Prod.mk.injEq] at hd
    obtain ⟨rfl, rfl⟩ := hd
    simp [Tag.hasDecoder]

/-- The state in which the payload decoder runs: right after the header (R140). -/
abbrev State.afterHeader (s : State) (h : BlockHeader) : State :=
  { s with cur := s.cur + 4, hdrStart := s.cur, hdr := h }

/-- A block step that answers: the header was there, the payload decoder answered, and the cursor is forced to the block's
declared end, inside the source, wherever the decoder left it (R143, R146, R148 (a)). -/
theorem State.decodeBlock_eq_ok {u : Bool} :
    s.decodeBlock h = .ok (t, u) ↔
      s.cur + 4 + h.length.toNat ≤ s.src.len
      ∧ ∃ r c, (s.afterHeader h).decodePayload = .ok (r, c) ∧ u = r.isNone
        ∧ t = { s.afterHeader h with
            cur := s.cur + 4 + h.length.toNat
            blocks := s.blocks ++ (r.map (MetadataBlock.mk h)).toList } := by
  unfold State.decodeBlock
  simp only [bind, Except.bind]
  by_cases hc : s.cur + 4 ≤ s.src.len
  · rw [State.decodeHeader_eq_ok.2 ⟨hc, rfl⟩]
    cases hp : (s.afterHeader h).decodePayload with
    | error k => simp [hp]
    | ok p =>
      obtain ⟨r, c⟩ := p
      by_cases he : s.cur + 4 + h.length.toNat ≤ s.src.len
      · have hr : ((s.afterHeader h).keepPayload r c).resync
            = .ok { (s.afterHeader h).keepPayload r c with cur := s.cur + 4 + h.length.toNat } := by
          refine State.resync_eq_ok.2 ⟨?_, ?_⟩ <;> simp [State.blockEnd, he]
        simp only [hp, hr, Except.ok.injEq, Prod.mk.injEq, he, true_and]
        constructor
        · rintro ⟨rfl, rfl⟩
          exact ⟨r, c, ⟨rfl, rfl⟩, rfl, by cases r <;> simp [State.keepPayload]⟩
        · rintro ⟨r', c', ⟨rfl, rfl⟩, rfl, rfl⟩
          exact ⟨by cases r <;> simp [State.keepPayload], rfl⟩
      · have hr : ((s.afterHeader h).keepPayload r c).resync = .error .truncated := by
          refine State.resync_eq_error.2 ⟨?_, rfl⟩
          simp [State.blockEnd]; omega
        simp [hp, hr, he]
  · rw [State.decodeHeader_eq_error.2 ⟨by omega, rfl⟩]
    simp only [reduceCtorEq, false_iff]
    rintro ⟨h1, -⟩
    omega

/-- A whole Blocks step that did not fault (R193). -/
theorem State.tryBlocksStep_eq_ok :
    s.tryBlocksStep h = .ok t ↔
      s.cur + 4 + h.length.toNat ≤ s.src.len
      ∧ ∃ r c, (s.afterHeader h).decodePayload = .ok (r, c)
        ∧ t = State.loopTest { s.afterHeader h with
            cur := s.cur + 4 + h.length.toNat
            blocks := s.blocks ++ (r.map (MetadataBlock.mk h)).toList } r.isNone := by
  unfold State.tryBlocksStep
  simp only [bind, Except.bind]
  cases hd : s.decodeBlock h with
  | error k =>
    simp only [reduceCtorEq, false_iff]
    rintro ⟨h1, r, c, h2, -⟩
    rw [State.decodeBlock_eq_ok.2 ⟨h1, r, c, h2, rfl, rfl⟩] at hd
    exact absurd hd (by simp)
  | ok p =>
    obtain ⟨t', u⟩ := p
    obtain ⟨h1, r, c, h2, rfl, rfl⟩ := State.decodeBlock_eq_ok.1 hd
    simp only [h1, true_and, Except.ok.injEq]
    constructor
    · rintro rfl; exact ⟨r, c, h2, rfl⟩
    · rintro ⟨r', c', h2', rfl⟩
      obtain ⟨rfl, rfl⟩ : r = r' ∧ c = c' := by simpa [h2] using h2'
      rfl

/-- A Blocks step either is the completed block or has entered a fault. -/
theorem State.blocksStep_cases (s : State) (h : BlockHeader) :
    s.tryBlocksStep h = .ok (s.blocksStep h) ∨ ∃ k, s.tryBlocksStep h = .error k ∧ s.blocksStep h = s.raise k :=
  State.orRaise_cases s _

/-- A Frame step either is Done or has entered a fault. -/
theorem State.frameStep_cases (s : State) (f : FrameHeaderRaw) :
    s.tryFrameStep f = .ok (s.frameStep f) ∨ ∃ k, s.tryFrameStep f = .error k ∧ s.frameStep f = s.raise k :=
  State.orRaise_cases s _

/-- The loop test after a block is the state `afterBlock` spells out (R193). -/
theorem State.loopTest_after (s : State) (h : BlockHeader) (r : Option Payload) :
    State.loopTest { s.afterHeader h with
        cur := s.cur + 4 + h.length.toNat
        blocks := s.blocks ++ (r.map (MetadataBlock.mk h)).toList } r.isNone = s.afterBlock h r := by
  cases r with
  | none => simp [State.loopTest, State.afterBlock]
  | some p => by_cases hl : h.isLast = 1#1 <;> simp [State.loopTest, State.afterBlock, hl]

/-- A block inside the source whose payload decodes is completed (R143, R193). -/
theorem State.blocksStep_done {r : Option Payload} {c : Nat} (he : s.cur + 4 + h.length.toNat ≤ s.src.len)
    (hp : (s.afterHeader h).decodePayload = .ok (r, c)) : s.blocksStep h = s.afterBlock h r := by
  unfold State.blocksStep
  rw [State.tryBlocksStep_eq_ok.2 ⟨he, r, c, hp, rfl⟩, State.loopTest_after]
  rfl

/-- A payload decoder's fault is the block step's (R176 (d)). -/
theorem State.blocksStep_error (hc : s.cur + 4 ≤ s.src.len) (hp : (s.afterHeader h).decodePayload = .error k) :
    s.blocksStep h = s.raise k := by
  simp [State.blocksStep, State.tryBlocksStep, State.decodeBlock, State.decodeHeader_eq_ok.2 ⟨hc, rfl⟩, hp, bind,
    Except.bind]

/-- A header cut short (R140, R120). -/
theorem State.blocksStep_short (hc : s.src.len < s.cur + 4) : s.blocksStep h = s.raise .truncated := by
  simp [State.blocksStep, State.tryBlocksStep, State.decodeBlock, State.decodeHeader_eq_error.2 ⟨hc, rfl⟩, bind,
    Except.bind]

/-! ### The faults a decoder can raise (R176 (d), R222) -/

theorem decodeSeekPoints_error {m : Memory} {n cur : Nat}
    (hd : decodeSeekPoints m n cur = .error k) : k = .truncated := by
  induction n generalizing cur with
  | zero => simp [decodeSeekPoints] at hd
  | succ n ih =>
    simp only [decodeSeekPoints, decodeSeekPoint, bind, Except.bind] at hd
    cases hr : m.readAt cur 18 with
    | error k' => simp only [hr, Except.error.injEq] at hd; exact hd ▸ (Memory.readAt_eq_error.1 hr).2
    | ok p =>
      simp only [hr] at hd
      cases hn : decodeSeekPoints m n p.2 with
      | error k' => simp only [hn, Except.error.injEq] at hd; subst hd; exact ih hn
      | ok q => simp [hn] at hd

theorem readString_error {cfg : Config} {m : Memory} {cur : Nat}
    (hd : readString cfg m cur = .error k) : k = .truncated ∨ k = .invalidUtf8 := by
  simp only [readString, readU32le, bind, Except.bind] at hd
  cases h1 : m.readAt cur 4 with
  | error k' => simp only [h1, Except.error.injEq] at hd; exact .inl (hd ▸ (Memory.readAt_eq_error.1 h1).2)
  | ok p =>
    simp only [h1] at hd
    cases h2 : m.readAt p.2 (u32le p.1).toNat with
    | error k' => simp only [h2, Except.error.injEq] at hd; exact .inl (hd ▸ (Memory.readAt_eq_error.1 h2).2)
    | ok q =>
      simp only [h2, Config.checkUtf8] at hd
      by_cases hu : cfg.utf8Valid q.1 = true
      · simp [hu] at hd
      · simp only [hu, Bool.false_eq_true, if_false, Except.error.injEq] at hd; exact .inr hd.symm

theorem readStrings_error {cfg : Config} {m : Memory} {n cur : Nat}
    (hd : readStrings cfg m n cur = .error k) : k = .truncated ∨ k = .invalidUtf8 := by
  induction n generalizing cur with
  | zero => simp [readStrings] at hd
  | succ n ih =>
    simp only [readStrings, bind, Except.bind] at hd
    cases hr : readString cfg m cur with
    | error k' => simp only [hr, Except.error.injEq] at hd; exact hd ▸ readString_error hr
    | ok p =>
      simp only [hr] at hd
      cases hn : readStrings cfg m n p.2 with
      | error k' => simp only [hn, Except.error.injEq] at hd; subst hd; exact ih hn
      | ok q => simp [hn] at hd

theorem decodeVorbisComment_error {cfg : Config} {m : Memory} {cur : Nat}
    (hd : decodeVorbisComment cfg m cur = .error k) : k = .truncated ∨ k = .invalidUtf8 := by
  simp only [decodeVorbisComment, readU32le, bind, Except.bind] at hd
  cases h1 : readString cfg m cur with
  | error k' => simp only [h1, Except.error.injEq] at hd; exact hd ▸ readString_error h1
  | ok p =>
    simp only [h1] at hd
    cases h2 : m.readAt p.2 4 with
    | error k' => simp only [h2, Except.error.injEq] at hd; exact .inl (hd ▸ (Memory.readAt_eq_error.1 h2).2)
    | ok q =>
      simp only [h2] at hd
      cases h3 : readStrings cfg m (u32le q.1).toNat q.2 with
      | error k' => simp only [h3, Except.error.injEq] at hd; exact hd ▸ readStrings_error h3
      | ok r => simp [h3] at hd

/-- The faults of a payload decoder: Truncated, or the one its rule names besides (R176 (d)). -/
theorem State.decodePayload_error (hd : s.decodePayload = .error k) :
    k = .truncated ∨ (s.hdr.blockType = 3#7 ∧ k = .seekTableLength) ∨ (s.hdr.blockType = 4#7 ∧ k = .invalidUtf8) := by
  unfold State.decodePayload at hd
  have tags := typeTag_eq (code := s.hdr.blockType)
  cases ht : typeTag s.hdr.blockType with
  | streamInfo =>
    simp only [ht, decodeStreamInfo, bind, Except.bind] at hd
    cases h1 : s.src.readAt s.cur 34 with
    | error k' => simp only [h1, Except.error.injEq] at hd; exact .inl (hd ▸ (Memory.readAt_eq_error.1 h1).2)
    | ok p => simp [h1] at hd
  | seekTable =>
    simp only [ht, bind, Except.bind] at hd
    cases h1 : decodeSeekTable s.src s.hdr.length s.cur with
    | error k' =>
      simp only [h1, Except.error.injEq] at hd
      subst hd
      unfold decodeSeekTable at h1
      split_ifs at h1 with hm
      · exact .inr (.inl ⟨tags.2.2.1.1 ht, by simpa using h1.symm⟩)
      · exact .inl (decodeSeekPoints_error h1)
    | ok p => simp [h1] at hd
  | vorbisComment =>
    simp only [ht, bind, Except.bind] at hd
    cases h1 : decodeVorbisComment s.cfg s.src s.cur with
    | error k' =>
      simp only [h1, Except.error.injEq] at hd
      subst hd
      rcases decodeVorbisComment_error h1 with h | h
      · exact .inl h
      · exact .inr (.inr ⟨tags.2.2.2.1 ht, h⟩)
    | ok p => simp [h1] at hd
  | padding =>
    simp only [ht, decodePadding, Memory.seek, bind, Except.bind] at hd
    split_ifs at hd
    simp only [Except.error.injEq] at hd; exact .inl hd.symm
  | application | cueSheet | picture | reserved | invalid =>
    simp [ht] at hd

/-- The faults of a whole block step (R222). -/
theorem State.tryBlocksStep_error (hd : s.tryBlocksStep h = .error k) :
    k = .truncated ∨ (h.blockType = 3#7 ∧ k = .seekTableLength) ∨ (h.blockType = 4#7 ∧ k = .invalidUtf8) := by
  unfold State.tryBlocksStep State.decodeBlock at hd
  simp only [bind, Except.bind] at hd
  by_cases hc : s.cur + 4 ≤ s.src.len
  · rw [State.decodeHeader_eq_ok.2 ⟨hc, rfl⟩] at hd
    cases hp : (s.afterHeader h).decodePayload with
    | error k' =>
      simp only [hp, Except.error.injEq] at hd
      subst hd
      exact State.decodePayload_error hp
    | ok p =>
      simp only [hp] at hd
      cases hr : ((s.afterHeader h).keepPayload p.1 p.2).resync with
      | error k' =>
        simp only [hr, Except.error.injEq] at hd
        exact .inl (hd ▸ (State.resync_eq_error.1 hr).2)
      | ok u => simp [hr] at hd
  · rw [State.decodeHeader_eq_error.2 ⟨by omega, rfl⟩] at hd
    simp only [Except.error.injEq] at hd
    exact .inl hd.symm

/-- The faults of the frame-header validator (R210, R212, R213). -/
theorem State.validateFrameHeader_error {f : FrameHeaderRaw} (hd : s.validateFrameHeader f = .error k) :
    k = .truncated ∨ (k = .syncMismatch ∧ f.sync ≠ syncPattern) ∨ (k = .reservedBitSet ∧ f.reservedClear = false) := by
  unfold State.validateFrameHeader at hd
  by_cases hc : s.cur + 4 ≤ s.src.len
  · rw [State.advance_eq_ok.2 ⟨hc, rfl⟩] at hd
    simp only [bind, Except.bind] at hd
    split_ifs at hd with h1 h2 <;> simp at hd <;> simp_all
  · rw [State.advance_eq_error.2 ⟨by omega, rfl⟩] at hd
    simp only [bind, Except.bind, Except.error.injEq] at hd
    exact .inl hd.symm

end Sys2Proof.Machine
end

