-- ==== Sys2Proof/Laws/Decode.lean ====
section
/-! SUPPORT. Decoding by phase keeps the header that was decoded. -/

namespace Sys2Proof

/-- The row a block header selects has that header: no bit is dropped, whatever the type code (R86, R93). -/
theorem decodeBlkhdr_blockHeader (h : BlockHeader) : (decodeBlkhdr h).blockHeader = some h := by
  obtain ⟨l, c, n⟩ := h
  have g1 : ∀ c : BitVec 7, c.extractLsb' 1 6 ++ c.extractLsb' 0 1 = c := by decide
  have g2 : ∀ c : BitVec 7, c.extractLsb' 2 5 ++ c.extractLsb' 0 2 = c := by decide
  have g3 : ∀ c : BitVec 7, c.extractLsb' 3 4 ++ c.extractLsb' 0 3 = c := by decide
  have g4 : ∀ c : BitVec 7, c.extractLsb' 4 3 ++ c.extractLsb' 0 4 = c := by decide
  have g5 : ∀ c : BitVec 7, c.extractLsb' 5 2 ++ c.extractLsb' 0 5 = c := by decide
  have all : ∀ c : BitVec 7, (c == 0#7 || c == 1#7 || c == 2#7 || c == 3#7 || c == 4#7 || c == 5#7 || c == 6#7 || c == 7#7
      || c.extractLsb' 3 4 == 0b0001#4 || c.extractLsb' 4 3 == 0b001#3 || c.extractLsb' 5 2 == 0b01#2
      || c.extractLsb' 5 2 == 0b10#2 || c.extractLsb' 4 3 == 0b110#3 || c.extractLsb' 3 4 == 0b1110#4
      || c.extractLsb' 2 5 == 0b11110#5 || c.extractLsb' 1 6 == 0b111110#6 || c == 126#7 || c == 127#7) = true := by
    decide
  simp only [decodeBlkhdr]
  by_cases h0 : c = 0#7
  · rw [if_pos h0, h0]; rfl
  rw [if_neg h0]
  by_cases h1 : c = 1#7
  · rw [if_pos h1, h1]; rfl
  rw [if_neg h1]
  by_cases h2 : c = 2#7
  · rw [if_pos h2, h2]; rfl
  rw [if_neg h2]
  by_cases h3 : c = 3#7
  · rw [if_pos h3, h3]; rfl
  rw [if_neg h3]
  by_cases h4 : c = 4#7
  · rw [if_pos h4, h4]; rfl
  rw [if_neg h4]
  by_cases h5 : c = 5#7
  · rw [if_pos h5, h5]; rfl
  rw [if_neg h5]
  by_cases h6 : c = 6#7
  · rw [if_pos h6, h6]; rfl
  rw [if_neg h6]
  by_cases h7 : c = 7#7
  · rw [if_pos h7, h7]; rfl
  rw [if_neg h7]
  by_cases h8 : c.extractLsb' 3 4 = 0b0001#4
  · rw [if_pos h8, Instr.blockHeader, ← h8, g3]
  rw [if_neg h8]
  by_cases h9 : c.extractLsb' 4 3 = 0b001#3
  · rw [if_pos h9, Instr.blockHeader, ← h9, g4]
  rw [if_neg h9]
  by_cases h10 : c.extractLsb' 5 2 = 0b01#2
  · rw [if_pos h10, Instr.blockHeader, ← h10, g5]
  rw [if_neg h10]
  by_cases h11 : c.extractLsb' 5 2 = 0b10#2
  · rw [if_pos h11, Instr.blockHeader, ← h11, g5]
  rw [if_neg h11]
  by_cases h12 : c.extractLsb' 4 3 = 0b110#3
  · rw [if_pos h12, Instr.blockHeader, ← h12, g4]
  rw [if_neg h12]
  by_cases h13 : c.extractLsb' 3 4 = 0b1110#4
  · rw [if_pos h13, Instr.blockHeader, ← h13, g3]
  rw [if_neg h13]
  by_cases h14 : c.extractLsb' 2 5 = 0b11110#5
  · rw [if_pos h14, Instr.blockHeader, ← h14, g2]
  rw [if_neg h14]
  by_cases h15 : c.extractLsb' 1 6 = 0b111110#6
  · rw [if_pos h15, Instr.blockHeader, ← h15, g1]
  rw [if_neg h15]
  by_cases h16 : c = 126#7
  · rw [if_pos h16, h16]; rfl
  rw [if_neg h16]
  have hc : c = 127#7 := by
    have ha := all c
    simp only [Bool.or_eq_true, beq_iff_eq] at ha
    tauto
  rw [hc]
  rfl

/-- The row a frame header selects has that header and applies in phase Frame (R93). -/
theorem decodeFramehdr_frameHeader (f : FrameHeaderRaw) :
    (decodeFramehdr f).frameHeader = some f ∧ (decodeFramehdr f).context = .element .frame := by
  obtain ⟨a, b, c, d, e, g, h, i⟩ := f
  unfold decodeFramehdr
  split_ifs with h1 h2 h3 <;> simp only [Instr.frameHeader, FrameCodes.header, FrameHeaderRaw.codes, Instr.context, and_true]
  · simp only at h1 h2; subst h1 h2; rfl
  · simp only at h1 h3; subst h1 h3; rfl

end Sys2Proof
end

