-- ==== Sys2Proof/Laws/Exec.lean ====
section
/-! SUPPORT. exec by the shape of the instruction, and what one step can be. -/

namespace Sys2Proof.Machine

variable {s t : State}

/-- A BLK row runs the block step on its header. -/
theorem exec_of_blockHeader {i : Instr} {h : BlockHeader} (hi : i.blockHeader = some h) (s : State) :
    exec i s = .next (s.blocksStep h) := by
  cases i <;> simp only [Instr.blockHeader, Option.some.injEq, reduceCtorEq] at hi <;> subst hi <;> rfl

/-- A row of phase Frame runs the Frame step on its header. -/
theorem exec_of_frameHeader {i : Instr} {f : FrameHeaderRaw} (hc : i.context = .element .frame)
    (hi : i.frameHeader = some f) (s : State) : exec i s = .next (s.frameStep f) := by
  cases i <;> simp only [Instr.frameHeader, Option.some.injEq, reduceCtorEq] at hi <;> subst hi <;>
    first | rfl | (simp [Instr.context] at hc)

/-- An element decoded from a word runs its phase's step on that word (R191). -/
theorem exec_decodeWord (p : Phase) (W : Word) (s : State) :
    exec (decodeWord p W) s = .next (match p with
      | .magic => s.orRaise (s.validateMagic W)
      | .blocks => s.blocksStep (BlockHeader.ofWord W)
      | .frame => s.frameStep (FrameHeaderRaw.ofWord W)) := by
  cases p with
  | magic => rfl
  | blocks => exact exec_of_blockHeader (decodeBlkhdr_blockHeader _) s
  | frame =>
    obtain ⟨h1, h2⟩ := decodeFramehdr_frameHeader (FrameHeaderRaw.ofWord W)
    exact exec_of_frameHeader h2 h1 s

/-- Every instruction answers a next state: a fault of the parse is one (R226). -/
theorem exec_next (i : Instr) (s : State) : ∃ t, exec i s = .next t := by
  cases i <;> exact ⟨_, rfl⟩

/-- An engine step while Busy: the fetched element, or Truncated. -/
theorem engineStep_busy (hb : s.status = .busy) :
    engineStep s = match s.fetch with
      | .ok i => exec i s
      | .error k => .next (s.raise k) := by
  obtain ⟨status, _⟩ := s
  obtain rfl : status = .busy := hb
  rfl

/-- An engine step while not Busy changes nothing. -/
theorem engineStep_not_busy (hb : s.status ≠ .busy) : engineStep s = .next s := by
  cases h : s.status <;> simp_all [engineStep]

theorem State.fetch_eq_ok {i : Instr} :
    s.fetch = .ok i ↔ s.cur + 4 ≤ s.src.len ∧ i = decodeWord s.phase (groupWord 32 (s.src.bytes s.cur 4)) := by
  unfold State.fetch Memory.read
  split_ifs with h <;> simp [h, eq_comm]

theorem State.fetch_eq_error {k : FaultKind} : s.fetch = .error k ↔ s.src.len < s.cur + 4 ∧ k = .truncated := by
  unfold State.fetch Memory.read
  split_ifs with h
  · simp; omega
  · simp [eq_comm]; omega

/-- The state after an engine step while Busy, without the decoded instruction in between (R191). -/
theorem engineStep_eq (hb : s.status = .busy) :
    engineStep s = .next (if s.cur + 4 ≤ s.src.len then
        match s.phase with
        | .magic => s.orRaise (s.validateMagic (groupWord 32 (s.src.bytes s.cur 4)))
        | .blocks => s.blocksStep (BlockHeader.ofWord (groupWord 32 (s.src.bytes s.cur 4)))
        | .frame => s.frameStep (FrameHeaderRaw.ofWord (groupWord 32 (s.src.bytes s.cur 4)))
      else s.raise .truncated) := by
  rw [engineStep_busy hb]
  by_cases hc : s.cur + 4 ≤ s.src.len
  · rw [State.fetch_eq_ok.2 ⟨hc, rfl⟩, if_pos hc]
    exact exec_decodeWord _ _ _
  · rw [State.fetch_eq_error.2 ⟨by omega, rfl⟩, if_neg hc]

/-- With the host silent a step is the engine's. -/
theorem step_silent (hh : s.host = []) : step s = engineStep s := by simp [step, hh]

/-- A run begins with its first step. -/
theorem run_succ {M : Host.Core} {a b : M.State} (h : M.step a = .next b) (k : Nat) : M.run (k + 1) a = M.run k b := by
  rw [Host.Core.run, h]

end Sys2Proof.Machine
end

