-- ==== Sys2Proof/Laws/Operands.lean ====
section
/-! SUPPORT. The operand forms: each field of a big-endian group as the bit slice of its schema (R55, R83 to R85, R89), and
the byte-order functions with their inverses (R10). -/

namespace Sys2Proof

/-! ### Fields as bit slices -/

@[simp] theorem BlockHeader.ofWord_isLast (W : Word) : (BlockHeader.ofWord W).isLast = W.extractLsb' 31 1 := rfl
@[simp] theorem BlockHeader.ofWord_blockType (W : Word) : (BlockHeader.ofWord W).blockType = W.extractLsb' 24 7 := rfl
@[simp] theorem BlockHeader.ofWord_length (W : Word) : (BlockHeader.ofWord W).length = W.extractLsb' 0 24 := rfl

@[simp] theorem StreamInfo.ofWord_minBlockSize (W : BitVec 272) : (StreamInfo.ofWord W).minBlockSize = W.extractLsb' 256 16 := rfl
@[simp] theorem StreamInfo.ofWord_maxBlockSize (W : BitVec 272) : (StreamInfo.ofWord W).maxBlockSize = W.extractLsb' 240 16 := rfl
@[simp] theorem StreamInfo.ofWord_minFrameSize (W : BitVec 272) : (StreamInfo.ofWord W).minFrameSize = W.extractLsb' 216 24 := rfl
@[simp] theorem StreamInfo.ofWord_maxFrameSize (W : BitVec 272) : (StreamInfo.ofWord W).maxFrameSize = W.extractLsb' 192 24 := rfl
@[simp] theorem StreamInfo.ofWord_sampleRate (W : BitVec 272) : (StreamInfo.ofWord W).sampleRate = W.extractLsb' 172 20 := rfl
@[simp] theorem StreamInfo.ofWord_channelsCode (W : BitVec 272) : (StreamInfo.ofWord W).channelsCode = W.extractLsb' 169 3 := rfl
@[simp] theorem StreamInfo.ofWord_bpsCode (W : BitVec 272) : (StreamInfo.ofWord W).bpsCode = W.extractLsb' 164 5 := rfl
@[simp] theorem StreamInfo.ofWord_totalSamples (W : BitVec 272) : (StreamInfo.ofWord W).totalSamples = W.extractLsb' 128 36 := rfl
@[simp] theorem StreamInfo.ofWord_md5 (W : BitVec 272) : (StreamInfo.ofWord W).md5 = W.extractLsb' 0 128 := rfl

@[simp] theorem SeekPoint.ofWord_sampleNumber (W : BitVec 144) : (SeekPoint.ofWord W).sampleNumber = W.extractLsb' 80 64 := rfl
@[simp] theorem SeekPoint.ofWord_streamOffset (W : BitVec 144) : (SeekPoint.ofWord W).streamOffset = W.extractLsb' 16 64 := rfl
@[simp] theorem SeekPoint.ofWord_frameSamples (W : BitVec 144) : (SeekPoint.ofWord W).frameSamples = W.extractLsb' 0 16 := rfl

@[simp] theorem FrameHeaderRaw.ofWord_sync (W : Word) : (FrameHeaderRaw.ofWord W).sync = W.extractLsb' 18 14 := rfl
@[simp] theorem FrameHeaderRaw.ofWord_reserved1 (W : Word) : (FrameHeaderRaw.ofWord W).reserved1 = W.extractLsb' 17 1 := rfl
@[simp] theorem FrameHeaderRaw.ofWord_blockingStrategy (W : Word) : (FrameHeaderRaw.ofWord W).blockingStrategy = W.extractLsb' 16 1 := rfl
@[simp] theorem FrameHeaderRaw.ofWord_blockSizeCode (W : Word) : (FrameHeaderRaw.ofWord W).blockSizeCode = W.extractLsb' 12 4 := rfl
@[simp] theorem FrameHeaderRaw.ofWord_sampleRateCode (W : Word) : (FrameHeaderRaw.ofWord W).sampleRateCode = W.extractLsb' 8 4 := rfl
@[simp] theorem FrameHeaderRaw.ofWord_channelCfgCode (W : Word) : (FrameHeaderRaw.ofWord W).channelCfgCode = W.extractLsb' 4 4 := rfl
@[simp] theorem FrameHeaderRaw.ofWord_sampleSizeCode (W : Word) : (FrameHeaderRaw.ofWord W).sampleSizeCode = W.extractLsb' 1 3 := rfl
@[simp] theorem FrameHeaderRaw.ofWord_reserved2 (W : Word) : (FrameHeaderRaw.ofWord W).reserved2 = W.extractLsb' 0 1 := rfl

/-- A bit slice as a number: `W[hi:lo] = (W div 2^lo) mod 2^width` (R10). -/
theorem slice_toNat {bits : Nat} (W : BitVec bits) (lo width : Nat) :
    (W.extractLsb' lo width).toNat = W.toNat / 2 ^ lo % 2 ^ width := by
  rw [BitVec.extractLsb'_toNat, Nat.shiftRight_eq_div_pow]

/-! ### Byte order -/

theorem be_lt (bytes : List Byte) : be bytes < 256 ^ bytes.length := by
  induction bytes with
  | nil => simp [be]
  | cons b rest ih =>
    have hb : b.toNat + 1 ≤ 256 := b.isLt
    calc be (b :: rest) < b.toNat * 256 ^ rest.length + 256 ^ rest.length := by simpa [be] using ih
      _ = (b.toNat + 1) * 256 ^ rest.length := by ring
      _ ≤ 256 * 256 ^ rest.length := Nat.mul_le_mul_right _ hb
      _ = 256 ^ (b :: rest).length := by rw [List.length_cons, pow_succ]; ring

@[simp] theorem beBytes_length (n v : Nat) : (beBytes n v).length = n := by
  induction n with
  | zero => rfl
  | succ n ih => simp [beBytes, ih]

@[simp] theorem leBytes_length (n v : Nat) : (leBytes n v).length = n := by
  induction n generalizing v with
  | zero => rfl
  | succ n ih => simp [leBytes, ih]

/-- `be` reads back what `beBytes` laid down. -/
theorem be_beBytes (n v : Nat) : be (beBytes n v) = v % 256 ^ n := by
  induction n with
  | zero => simp [beBytes, be, Nat.mod_one]
  | succ n ih =>
    have hm : v % 256 ^ (n + 1) = v % 256 ^ n + 256 ^ n * (v / 256 ^ n % 256) := by rw [pow_succ, Nat.mod_mul]
    have hb : (BitVec.ofNat 8 (v / 256 ^ n)).toNat = v / 256 ^ n % 256 := BitVec.toNat_ofNat ..
    simp only [beBytes, be, beBytes_length, ih, hb, hm]
    rw [Nat.mul_comm, Nat.add_comm]

/-- `le` reads back what `leBytes` laid down. -/
theorem le_leBytes (n v : Nat) : le (leBytes n v) = v % 256 ^ n := by
  induction n generalizing v with
  | zero => simp [leBytes, le, Nat.mod_one]
  | succ n ih =>
    have hm : v % 256 ^ (n + 1) = v % 256 + 256 * (v / 256 % 256 ^ n) := by
      rw [pow_succ, Nat.mul_comm (256 ^ n), Nat.mod_mul]
    have hb : (BitVec.ofNat 8 v).toNat = v % 256 := BitVec.toNat_ofNat ..
    simp only [leBytes, le, ih, hb, hm]

/-- A group's integer, read back from the bytes laid down for it. -/
theorem groupWord_beBytes {n : Nat} (W : BitVec (8 * n)) : groupWord (8 * n) (beBytes n W.toNat) = W := by
  apply BitVec.eq_of_toNat_eq
  have hW := W.isLt
  have hp : (256 : Nat) ^ n = 2 ^ (8 * n) := by rw [show (256 : Nat) = 2 ^ 8 by rfl, ← pow_mul]
  simp only [groupWord, be_beBytes, BitVec.toNat_ofNat, hp]
  rw [Nat.mod_mod, Nat.mod_eq_of_lt hW]

/-- A little-endian field, read back from its four bytes. -/
theorem u32le_leBytes (v : Nat) (hv : v < 2 ^ 32) : (u32le (leBytes 4 v)).toNat = v := by
  simp only [u32le, le_leBytes, BitVec.toNat_ofNat]
  omega

/-! ### The records read back from their words (R83 to R85, R89) -/

theorem BlockHeader.ofWord_word (h : BlockHeader) : BlockHeader.ofWord h.word = h := by
  obtain ⟨a, b, c⟩ := h
  have := a.isLt; have := b.isLt; have := c.isLt
  ext1 <;> apply BitVec.eq_of_toNat_eq <;>
    simp only [BlockHeader.ofWord_isLast, BlockHeader.ofWord_blockType, BlockHeader.ofWord_length, BlockHeader.word,
      slice_toNat, BitVec.toNat_ofNat] <;> omega

theorem FrameHeaderRaw.ofWord_word (f : FrameHeaderRaw) : FrameHeaderRaw.ofWord f.word = f := by
  obtain ⟨a, b, c, d, e, f, g, i⟩ := f
  have := a.isLt; have := b.isLt; have := c.isLt; have := d.isLt
  have := e.isLt; have := f.isLt; have := g.isLt; have := i.isLt
  ext1 <;> apply BitVec.eq_of_toNat_eq <;>
    simp only [FrameHeaderRaw.ofWord_sync, FrameHeaderRaw.ofWord_reserved1, FrameHeaderRaw.ofWord_blockingStrategy,
      FrameHeaderRaw.ofWord_blockSizeCode, FrameHeaderRaw.ofWord_sampleRateCode, FrameHeaderRaw.ofWord_channelCfgCode,
      FrameHeaderRaw.ofWord_sampleSizeCode, FrameHeaderRaw.ofWord_reserved2, FrameHeaderRaw.word, slice_toNat,
      BitVec.toNat_ofNat] <;> omega

theorem SeekPoint.ofWord_word (p : SeekPoint) : SeekPoint.ofWord p.word = p := by
  obtain ⟨a, b, c⟩ := p
  have := a.isLt; have := b.isLt; have := c.isLt
  ext1 <;> apply BitVec.eq_of_toNat_eq <;>
    simp only [SeekPoint.ofWord_sampleNumber, SeekPoint.ofWord_streamOffset, SeekPoint.ofWord_frameSamples,
      SeekPoint.word, slice_toNat, BitVec.toNat_ofNat] <;> norm_num at * <;> omega

theorem StreamInfo.ofWord_word (si : StreamInfo) : StreamInfo.ofWord si.word = si := by
  obtain ⟨a, b, c, d, e, f, g, i, j⟩ := si
  have := a.isLt; have := b.isLt; have := c.isLt; have := d.isLt; have := e.isLt
  have := f.isLt; have := g.isLt; have := i.isLt; have := j.isLt
  ext1 <;> apply BitVec.eq_of_toNat_eq <;>
    simp only [StreamInfo.ofWord_minBlockSize, StreamInfo.ofWord_maxBlockSize, StreamInfo.ofWord_minFrameSize,
      StreamInfo.ofWord_maxFrameSize, StreamInfo.ofWord_sampleRate, StreamInfo.ofWord_channelsCode,
      StreamInfo.ofWord_bpsCode, StreamInfo.ofWord_totalSamples, StreamInfo.ofWord_md5, StreamInfo.word, slice_toNat,
      BitVec.toNat_ofNat] <;> norm_num at * <;> omega

end Sys2Proof
end

