-- ==== Sys2Proof/Laws/Payload.lean ====
section
/-! SUPPORT. What the payload loops answer on bytes laid out as their format says (R164, R168). -/

namespace Sys2Proof.Machine

/-- The record loop on a payload inside the source (R164, R85). -/
theorem decodeSeekPoints_inside (m : Memory) (n cur : Nat) (h : cur + 18 * n ≤ m.len) :
    decodeSeekPoints m n cur
      = .ok ((List.range n).map fun i => SeekPoint.ofWord (groupWord 144 (m.bytes (cur + 18 * i) 18)), cur + 18 * n) := by
  induction n generalizing cur with
  | zero => simp [decodeSeekPoints]
  | succ n ih =>
    have hr : m.readAt cur 18 = .ok (m.bytes cur 18, cur + 18) := Memory.readAt_eq_ok.2 ⟨by omega, rfl, rfl⟩
    simp only [decodeSeekPoints, decodeSeekPoint, hr, bind, Except.bind, ih (cur + 18) (by omega)]
    rw [List.range_succ_eq_map]
    simp only [List.map_cons, List.map_map, Except.ok.injEq, Prod.mk.injEq, List.cons.injEq]
    refine ⟨⟨by simp, List.map_congr_left fun i _ => ?_⟩, by omega⟩
    simp only [Function.comp_apply, Nat.succ_eq_add_one]
    congr 3
    omega

/-- The record loop on a payload the source cuts short (R165). -/
theorem decodeSeekPoints_short (m : Memory) (n cur : Nat) (h : m.len < cur + 18 * n) (hc : cur ≤ m.len) :
    decodeSeekPoints m n cur = .error .truncated := by
  induction n generalizing cur with
  | zero => omega
  | succ n ih =>
    by_cases hh : cur + 18 ≤ m.len
    · have hr : m.readAt cur 18 = .ok (m.bytes cur 18, cur + 18) := Memory.readAt_eq_ok.2 ⟨hh, rfl, rfl⟩
      simp only [decodeSeekPoints, decodeSeekPoint, hr, bind, Except.bind, ih (cur + 18) (by omega) hh]
    · have hr : m.readAt cur 18 = .error .truncated := Memory.readAt_eq_error.2 ⟨by omega, rfl⟩
      simp only [decodeSeekPoints, decodeSeekPoint, hr, bind, Except.bind]

/-- A length-prefixed string laid out at the cursor: read whole, then checked (R124, R127). -/
theorem readString_laidOut {cfg : Config} {m : Memory} {a : Nat} {x : List Byte} (hx : x.length < 2 ^ 32)
    (hl : a + (stringBytes x).length ≤ m.len) (hb : m.bytes a (stringBytes x).length = stringBytes x) :
    readString cfg m a
      = if cfg.utf8Valid x then .ok (x, a + (stringBytes x).length) else .error .invalidUtf8 := by
  obtain ⟨h1, h2⟩ := Memory.bytes_split hb
  simp only [stringBytes, List.length_append, leBytes_length] at hl h1 h2 ⊢
  have r1 : m.readAt a 4 = .ok (leBytes 4 x.length, a + 4) := Memory.readAt_eq_ok.2 ⟨by omega, h1.symm, rfl⟩
  have r2 : m.readAt (a + 4) x.length = .ok (x, a + 4 + x.length) := Memory.readAt_eq_ok.2 ⟨by omega, h2.symm, rfl⟩
  simp only [readString, readU32le, r1, bind, Except.bind, u32le_leBytes _ hx, r2, Config.checkUtf8]
  split_ifs <;> simp
  omega

/-- A run of valid strings laid out at the cursor, and the loop's further turns after them (R168). -/
theorem readStrings_laidOut {cfg : Config} {m : Memory} {a : Nat} {xs : List (List Byte)}
    (hx : ∀ x ∈ xs, x.length < 2 ^ 32) (hv : ∀ x ∈ xs, cfg.utf8Valid x = true)
    (hl : a + (xs.map stringBytes).flatten.length ≤ m.len)
    (hb : m.bytes a (xs.map stringBytes).flatten.length = (xs.map stringBytes).flatten) (k : Nat) :
    readStrings cfg m (xs.length + k) a
      = (readStrings cfg m k (a + (xs.map stringBytes).flatten.length)).map (fun p => (xs ++ p.1, p.2)) := by
  induction xs generalizing a with
  | nil => simp; cases readStrings cfg m k a <;> rfl
  | cons x r ih =>
    simp only [List.map_cons, List.flatten_cons] at hl hb
    obtain ⟨h1, h2⟩ := Memory.bytes_split hb
    rw [List.length_append] at hl
    have e1 := readString_laidOut (cfg := cfg) (hx x (by simp)) (by omega) h1
    rw [hv x (by simp), if_pos rfl] at e1
    have e2 := ih (a := a + (stringBytes x).length) (fun y hy => hx y (by simp [hy])) (fun y hy => hv y (by simp [hy]))
      (by omega) h2
    rw [show (x :: r).length + k = (r.length + k) + 1 by simp; omega]
    simp only [readStrings, e1, bind, Except.bind, e2]
    rw [List.map_cons, List.flatten_cons, List.length_append, ← Nat.add_assoc]
    cases readStrings cfg m k (a + (stringBytes x).length + (r.map stringBytes).flatten.length) <;> simp [Except.map]

end Sys2Proof.Machine
end

