-- ==== Sys2Proof/Laws/PerInstr.lean ====
section
/-! SUPPORT. Statements made for every instruction, one lemma per constructor. -/

namespace Sys2Proof.Laws.EncodeLength

/-- An instruction is encoded in as many bytes as its context's format has (R58). -/
def Statement (i : Instr) : Prop := (encode i).length = i.context.size

theorem magic (sig : Word) : Statement (.magic sig) := beBytes_length _ _
theorem blkStreaminfo (isLast : BitVec 1) (length : BitVec 24) : Statement (.blkStreaminfo isLast length) := beBytes_length _ _
theorem blkPadding (isLast : BitVec 1) (length : BitVec 24) : Statement (.blkPadding isLast length) := beBytes_length _ _
theorem blkApplication (isLast : BitVec 1) (length : BitVec 24) : Statement (.blkApplication isLast length) := beBytes_length _ _
theorem blkSeektable (isLast : BitVec 1) (length : BitVec 24) : Statement (.blkSeektable isLast length) := beBytes_length _ _
theorem blkVorbiscomment (isLast : BitVec 1) (length : BitVec 24) : Statement (.blkVorbiscomment isLast length) := beBytes_length _ _
theorem blkCuesheet (isLast : BitVec 1) (length : BitVec 24) : Statement (.blkCuesheet isLast length) := beBytes_length _ _
theorem blkPicture (isLast : BitVec 1) (length : BitVec 24) : Statement (.blkPicture isLast length) := beBytes_length _ _
theorem blkReserved7 (isLast : BitVec 1) (length : BitVec 24) : Statement (.blkReserved7 isLast length) := beBytes_length _ _
theorem blkReserved8_15 (isLast : BitVec 1) (low : BitVec 3) (length : BitVec 24) : Statement (.blkReserved8_15 isLast low length) := beBytes_length _ _
theorem blkReserved16_31 (isLast : BitVec 1) (low : BitVec 4) (length : BitVec 24) : Statement (.blkReserved16_31 isLast low length) := beBytes_length _ _
theorem blkReserved32_63 (isLast : BitVec 1) (low : BitVec 5) (length : BitVec 24) : Statement (.blkReserved32_63 isLast low length) := beBytes_length _ _
theorem blkReserved64_95 (isLast : BitVec 1) (low : BitVec 5) (length : BitVec 24) : Statement (.blkReserved64_95 isLast low length) := beBytes_length _ _
theorem blkReserved96_111 (isLast : BitVec 1) (low : BitVec 4) (length : BitVec 24) : Statement (.blkReserved96_111 isLast low length) := beBytes_length _ _
theorem blkReserved112_119 (isLast : BitVec 1) (low : BitVec 3) (length : BitVec 24) : Statement (.blkReserved112_119 isLast low length) := beBytes_length _ _
theorem blkReserved120_123 (isLast : BitVec 1) (low : BitVec 2) (length : BitVec 24) : Statement (.blkReserved120_123 isLast low length) := beBytes_length _ _
theorem blkReserved124_125 (isLast : BitVec 1) (low : BitVec 1) (length : BitVec 24) : Statement (.blkReserved124_125 isLast low length) := beBytes_length _ _
theorem blkReserved126 (isLast : BitVec 1) (length : BitVec 24) : Statement (.blkReserved126 isLast length) := beBytes_length _ _
theorem blkInvalid (isLast : BitVec 1) (length : BitVec 24) : Statement (.blkInvalid isLast length) := beBytes_length _ _
theorem framehdr (f : FrameHeaderRaw) : Statement (.framehdr f) := beBytes_length _ _
theorem framehdrReserved1 (c : FrameCodes) (reserved2 : BitVec 1) : Statement (.framehdrReserved1 c reserved2) := beBytes_length _ _
theorem framehdrReserved2 (reserved1 : BitVec 1) (c : FrameCodes) : Statement (.framehdrReserved2 reserved1 c) := beBytes_length _ _
theorem fmtBlkhdr (h : BlockHeader) : Statement (.fmtBlkhdr h) := beBytes_length _ _
theorem payStreaminfo (si : StreamInfo) : Statement (.payStreaminfo si) := beBytes_length _ _
theorem paySeekpoint (p : SeekPoint) : Statement (.paySeekpoint p) := beBytes_length _ _
theorem payU32le (v : BitVec 32) : Statement (.payU32le v) := leBytes_length _ _
theorem fmtFramehdr (c : FrameCodes) : Statement (.fmtFramehdr c) := beBytes_length _ _

end Sys2Proof.Laws.EncodeLength
end

