-- ==== Sys2Proof/Tests/Slice0.lean ====
section
/-! SUPPORT. The model's own tests. Expected values are the spec's own: the vectors of 95_test_vectors.md, named V<n>-<m> and
S<n>, and words written out from the encodings of 30_encoding.md. A witness shows operands and a state that meet the
hypotheses of the obligation it is named after. -/

namespace Sys2Proof.Tests

open Sys2Proof Sys2Proof.Machine

/-! ### Helpers -/

/-- The nine values of the spec's reference payload `SI`. -/
def siV : StreamInfo :=
  ⟨4096#16, 4096#16, 14#24, 12090#24, 44100#20, 1#3, 15#5, 1225668#36, 0x0123456789ABCDEFFEDCBA9876543210#128⟩

/-- The 34 bytes of `SI`. -/
def siBytes : List Byte := beBytes 34 0x10001000_00000e_002f3a_0ac442f0_0012b3c4_0123456789abcdeffedcba9876543210

/-- The payload `VC` of vector S4: vendor "ref", comments "A=b" and "T=" with an e acute. -/
def vcVendor : List Byte := beBytes 3 0x726566
def vcComments : List (List Byte) := [beBytes 3 0x413d62, beBytes 4 0x543dc3a9]

/-- A machine in which a parse runs, at an offset of a source. -/
def busyOn (p : Phase) (cur : Nat) (bytes : List Byte) : State :=
  { State.reset with status := .busy, phase := p, cur := cur, src := Memory.ofBytes bytes }

/-- The same with a source of `n` bytes written as one number. -/
def busy (p : Phase) (cur n v : Nat) : State := busyOn p cur (beBytes n v)

/-- The next state, where there is one. -/
def nextOf (o : Host.Outcome State Fault Refusal) : Option State :=
  match o with
  | .next t => some t
  | .fault _ | .refused _ => none

/-- One step of a running parse. -/
def stepOf (p : Phase) (cur n v : Nat) : Option State := nextOf (step (busy p cur n v))

/-! ### Well-formedness: an ill-formed term for each check, refused -/

theorem test_wf_framehdr_reserved1 : Instr.wf (.framehdr ⟨0x3FFE#14, 1#1, 0#1, 0#4, 0#4, 0#4, 0#3, 0#1⟩) = false := by decide
theorem test_wf_framehdr_reserved2 : Instr.wf (.framehdr ⟨0x3FFE#14, 0#1, 0#1, 0#4, 0#4, 0#4, 0#3, 1#1⟩) = false := by decide
theorem test_wf_framehdrReserved2 : Instr.wf (.framehdrReserved2 1#1 ⟨0#1, 0#4, 0#4, 0#4, 0#3⟩) = false := by decide
theorem test_wf_framehdr_bad_sync : Instr.wf (.framehdr ⟨0x3FFF#14, 1#1, 0#1, 0#4, 0#4, 0#4, 0#3, 1#1⟩) = true := by decide

/-! ### Decoding: one word per constructor, written out from the spec's encoding -/

/-- MAGIC, R82: 66 4C 61 43. -/
theorem test_decode_magic :
    decodeTableWord 32 0b01100110_01001100_01100001_01000011 = some (.magic 0x664C6143#32) := by decide
/-- V41-2. -/
theorem test_decode_blkStreaminfo :
    decodeTableWord 32 0b1_0000000_000000000000000000100010 = some (.blkStreaminfo 1#1 34#24) := by decide
/-- V41-7. -/
theorem test_decode_blkPadding :
    decodeTableWord 32 0b0_0000001_000000000000000100000000 = some (.blkPadding 0#1 256#24) := by decide
/-- V41-8. -/
theorem test_decode_blkApplication :
    decodeTableWord 32 0b0_0000010_000000000000000000000011 = some (.blkApplication 0#1 3#24) := by decide
/-- V41-4. -/
theorem test_decode_blkSeektable :
    decodeTableWord 32 0b0_0000011_000000000000000000100100 = some (.blkSeektable 0#1 36#24) := by decide
/-- V41-3. -/
theorem test_decode_blkVorbiscomment :
    decodeTableWord 32 0b1_0000100_000000000000000000101000 = some (.blkVorbiscomment 1#1 40#24) := by decide
/-- V41-9. -/
theorem test_decode_blkCuesheet :
    decodeTableWord 32 0b1_0000101_000000000000000000000000 = some (.blkCuesheet 1#1 0#24) := by decide
/-- V41-10. -/
theorem test_decode_blkPicture :
    decodeTableWord 32 0b0_0000110_000100100011010001010110 = some (.blkPicture 0#1 1193046#24) := by decide
/-- V41-11. -/
theorem test_decode_blkReserved7 :
    decodeTableWord 32 0b0_0000111_000000000000000000000000 = some (.blkReserved7 0#1 0#24) := by decide
/-- V41-12. -/
theorem test_decode_blkReserved8_15 :
    decodeTableWord 32 0b0_0001010_000000000000000000000010 = some (.blkReserved8_15 0#1 2#3 2#24) := by decide
/-- type code 30, R86. -/
theorem test_decode_blkReserved16_31 :
    decodeTableWord 32 0b1_0011110_000000000000000000000001 = some (.blkReserved16_31 1#1 14#4 1#24) := by decide
/-- type code 33, R86. -/
theorem test_decode_blkReserved32_63 :
    decodeTableWord 32 0b0_0100001_000000000000000000000001 = some (.blkReserved32_63 0#1 1#5 1#24) := by decide
/-- type code 95, R86. -/
theorem test_decode_blkReserved64_95 :
    decodeTableWord 32 0b0_1011111_000000000000000000000001 = some (.blkReserved64_95 0#1 31#5 1#24) := by decide
/-- type code 96, R86. -/
theorem test_decode_blkReserved96_111 :
    decodeTableWord 32 0b1_1100000_000000000000000000000001 = some (.blkReserved96_111 1#1 0#4 1#24) := by decide
/-- type code 117, R86. -/
theorem test_decode_blkReserved112_119 :
    decodeTableWord 32 0b0_1110101_000000000000000000000001 = some (.blkReserved112_119 0#1 5#3 1#24) := by decide
/-- type code 122, R86. -/
theorem test_decode_blkReserved120_123 :
    decodeTableWord 32 0b0_1111010_000000000000000000000001 = some (.blkReserved120_123 0#1 2#2 1#24) := by decide
/-- type code 125, R86. -/
theorem test_decode_blkReserved124_125 :
    decodeTableWord 32 0b0_1111101_000000000000000000000001 = some (.blkReserved124_125 0#1 1#1 1#24) := by decide
/-- V41-13. -/
theorem test_decode_blkReserved126 :
    decodeTableWord 32 0b1_1111110_000000000000000000000000 = some (.blkReserved126 1#1 0#24) := by decide
/-- V41-5. -/
theorem test_decode_blkInvalid :
    decodeTableWord 32 0b0_1111111_111111111111111111111111 = some (.blkInvalid 0#1 16777215#24) := by decide
/-- V40-4. -/
theorem test_decode_framehdr :
    decodeTableWord 32 0b11111111111110_0_0_1100_1001_0001_100_0 = some (.framehdr ⟨0x3FFE#14, 0#1, 0#1, 12#4, 9#4, 1#4, 4#3, 0#1⟩) := by decide
/-- V44-5. -/
theorem test_decode_framehdrReserved1 :
    decodeTableWord 32 0b11111111111110_1_1_0000_0000_0000_000_0 = some (.framehdrReserved1 ⟨1#1, 0#4, 0#4, 0#4, 0#3⟩ 0#1) := by decide
/-- V44-7. -/
theorem test_decode_framehdrReserved2 :
    decodeTableWord 32 0b11111111111110_0_1_1111_1111_1111_111_1 = some (.framehdrReserved2 0#1 ⟨1#1, 15#4, 15#4, 15#4, 7#3⟩) := by decide
/-- V42-1. -/
theorem test_decode_payStreaminfo :
    decodeTableWord 272 0x10001000_00000e_002f3a_0ac442f0_0012b3c4_0123456789abcdeffedcba9876543210 = some (.payStreaminfo siV) := by decide
/-- V42-10. -/
theorem test_decode_paySeekpoint :
    decodeTableWord 144 0x0000000000100000_000000000002a1b3_1000 = some (.paySeekpoint ⟨1048576#64, 172467#64, 4096#16⟩) := by decide
/-- V40-2, the field group. -/
theorem test_decode_fmtBlkhdr :
    decode (.group .blkhdr) (beBytes 4 0x7fffffff) = .ok (.fmtBlkhdr ⟨0#1, 127#7, 16777215#24⟩, []) := by decide
/-- V40-10: `78 56 34 12`, with a byte after it. -/
theorem test_decode_payU32le :
    decode (.group .u32le) (beBytes 5 0x78563412FF) = .ok (.payU32le 0x12345678#32, [0xFF#8]) := by decide
/-- V40-4, the field group. -/
theorem test_decode_fmtFramehdr :
    decode (.group .framehdr) (beBytes 4 0xfff8c918) = .ok (.fmtFramehdr ⟨0#1, 12#4, 9#4, 1#4, 4#3⟩, []) := by decide
/-- V44-4: reserved1 set is no word of FMT.FRAMEHDR. -/
theorem test_decode_fmtFramehdr_fixed :
    decode (.group .framehdr) (beBytes 4 0xfffa0000) = .error .fixedBits := by decide
/-- Three bytes are no element (R58, R192). -/
theorem test_decode_too_few : decode (.element .magic) (beBytes 3 0x664c61) = .error .tooFewBytes := by decide
/-- V44-12: a bad sync with both reserved bits set stays with FRAMEHDR. -/
theorem test_decode_framehdr_else :
    decodeWord .frame 0xFFFE0001#32 = .framehdr ⟨0x3FFF#14, 1#1, 0#1, 0#4, 0#4, 0#4, 0#3, 1#1⟩ := by decide
/-- A word that two rows match is read by the first (log 8). -/
theorem test_decode_both_reserved :
    decodeWord .frame 0xFFFA0001#32 = .framehdrReserved1 ⟨0#1, 0#4, 0#4, 0#4, 0#3⟩ 1#1 := by decide

/-! ### One step of each element -/

/-- V43-4, first step: the signature is good. -/
theorem test_magic :
    (stepOf .magic 0 4 0x664c6143).map (fun t => (t.cur, t.phase, t.status)) = some (4, .blocks, .busy) := by decide
/-- V43-5 and S7. -/
theorem test_magic_wrong_case :
    (stepOf .magic 0 4 0x666c6163).map (fun t => (t.status, t.errKind, t.cur)) = some (.failed, some .badSignature, 0) := by decide
/-- V41-19: 34 of 36 payload bytes decoded, the cursor at the declared end. -/
theorem test_streaminfo_under :
    (nextOf (step (busyOn .blocks 4
      (beBytes 8 0x664c614380000024 ++ siBytes ++ beBytes 6 0x5566fff80000)))).map
      (fun t => (t.cur, t.blocks, t.stopReason, t.phase)) = some (44, [⟨⟨1#1, 0#7, 36#24⟩, .streamInfo siV⟩], .lastFlag, .frame) := by decide
/-- V41-20, first block: length 0, the cursor moved back from 42 to 8. -/
theorem test_streaminfo_over :
    (nextOf (step (busyOn .blocks 4
      (beBytes 8 0x664c614300000000 ++ beBytes 4 0x8100001e ++ List.replicate 30 0#8 ++ beBytes 4 0xfff80000)))).map
      (fun t => (t.cur, t.blocks.length, t.phase)) = some (8, 1, .blocks) := by decide
/-- V42-11. -/
theorem test_padding :
    (stepOf .blocks 4 15 0x664c614381000003aabbccfff8c918).map (fun t => (t.cur, t.blocks, t.hdrStart))
      = some (11, [⟨⟨1#1, 1#7, 3#24⟩, .padding 3#24⟩], 4) := by decide
/-- V42-13: skip target 13 beyond 12 bytes. -/
theorem test_padding_truncated :
    (stepOf .blocks 4 12 0x664c61438100000500000000).map (fun t => (t.status, t.errKind)) = some (.failed, some .truncated) := by decide
/-- V42-5: no value is special. -/
theorem test_seektable :
    (stepOf .blocks 4 30 0x664c614383000012ffffffffffffffff00000000000000000000fff8c918).map (fun t => (t.blocks, t.cur))
      = some ([⟨⟨1#1, 3#7, 18#24⟩, .seekTable [⟨0xFFFFFFFFFFFFFFFF#64, 0#64, 0#16⟩]⟩], 26) := by decide
/-- V42-6: the length test comes first. -/
theorem test_seektable_length :
    (stepOf .blocks 4 8 0x664c614383000013).map (fun t => (t.errKind, t.errClass)) = some (some .seekTableLength, some .structuralError) := by decide
/-- V42-16 (S4). -/
theorem test_vorbiscomment :
    (nextOf (step (busyOn .blocks 4
      (beBytes 8 0x664c61438400001a ++ vorbisBytes vcVendor vcComments ++ beBytes 4 0xfff8c918)))).map
      (fun t => (t.cur, t.blocks)) = some (34, [⟨⟨1#1, 4#7, 26#24⟩, .vorbisComment ⟨vcVendor, vcComments⟩⟩]) := by decide
/-- S4: the payload `VC` byte for byte. -/
theorem test_vorbiscomment_bytes :
    vorbisBytes vcVendor vcComments = beBytes 26 0x0300000072656602000000030000_00413d6204000000543dc3a9 := by decide
/-- V42-18: the vendor is checked before the count is read. -/
theorem test_vorbiscomment_invalid :
    (stepOf .blocks 4 13 0x664c6143840000090100000080).map (fun t => (t.errKind, t.errClass))
      = some (some .invalidUtf8, some .encodingError) := by decide
/-- V41-15. -/
theorem test_application :
    (stepOf .blocks 4 15 0x664c614302000003414243fff8c918).map (fun t => (t.cur, t.blocks, t.stopReason, t.phase, t.hdr))
      = some (11, [], .unsupported, .frame, ⟨0#1, 2#7, 3#24⟩) := by decide
/-- V41-9 with a frame header after it (R145). -/
theorem test_cuesheet :
    (stepOf .blocks 4 12 0x664c614385000000fff8c918).map (fun t => (t.cur, t.blocks, t.stopReason, t.phase, t.hdr))
      = some (8, [], .unsupported, .frame, ⟨1#1, 5#7, 0#24⟩) := by decide
/-- R145, R86: type code 6. -/
theorem test_picture :
    (stepOf .blocks 4 13 0x664c614306000001aafff8c918).map (fun t => (t.cur, t.blocks, t.stopReason, t.phase, t.hdr))
      = some (9, [], .unsupported, .frame, ⟨0#1, 6#7, 1#24⟩) := by decide
/-- V41-11 with a frame header after it (R145). -/
theorem test_reserved7 :
    (stepOf .blocks 4 12 0x664c614307000000fff8c918).map (fun t => (t.cur, t.blocks, t.stopReason, t.phase, t.hdr))
      = some (8, [], .unsupported, .frame, ⟨0#1, 7#7, 0#24⟩) := by decide
/-- V41-14: unsupported and last together. -/
theorem test_reserved8_15 :
    (stepOf .blocks 4 12 0x664c61438a000000fff8c918).map (fun t => (t.cur, t.blocks, t.stopReason, t.phase, t.hdr))
      = some (8, [], .unsupported, .frame, ⟨1#1, 10#7, 0#24⟩) := by decide
/-- R145, R86: type code 16. -/
theorem test_reserved16_31 :
    (stepOf .blocks 4 12 0x664c614310000000fff8c918).map (fun t => (t.cur, t.blocks, t.stopReason, t.phase, t.hdr))
      = some (8, [], .unsupported, .frame, ⟨0#1, 16#7, 0#24⟩) := by decide
/-- R145, R86: type code 63. -/
theorem test_reserved32_63 :
    (stepOf .blocks 4 12 0x664c6143bf000000fff8c918).map (fun t => (t.cur, t.blocks, t.stopReason, t.phase, t.hdr))
      = some (8, [], .unsupported, .frame, ⟨1#1, 63#7, 0#24⟩) := by decide
/-- R145, R86: type code 64. -/
theorem test_reserved64_95 :
    (stepOf .blocks 4 12 0x664c614340000000fff8c918).map (fun t => (t.cur, t.blocks, t.stopReason, t.phase, t.hdr))
      = some (8, [], .unsupported, .frame, ⟨0#1, 64#7, 0#24⟩) := by decide
/-- R145, R86: type code 111. -/
theorem test_reserved96_111 :
    (stepOf .blocks 4 12 0x664c61436f000000fff8c918).map (fun t => (t.cur, t.blocks, t.stopReason, t.phase, t.hdr))
      = some (8, [], .unsupported, .frame, ⟨0#1, 111#7, 0#24⟩) := by decide
/-- R145, R86: type code 112. -/
theorem test_reserved112_119 :
    (stepOf .blocks 4 12 0x664c614370000000fff8c918).map (fun t => (t.cur, t.blocks, t.stopReason, t.phase, t.hdr))
      = some (8, [], .unsupported, .frame, ⟨0#1, 112#7, 0#24⟩) := by decide
/-- R145, R86: type code 120. -/
theorem test_reserved120_123 :
    (stepOf .blocks 4 12 0x664c614378000000fff8c918).map (fun t => (t.cur, t.blocks, t.stopReason, t.phase, t.hdr))
      = some (8, [], .unsupported, .frame, ⟨0#1, 120#7, 0#24⟩) := by decide
/-- R145, R86: type code 124. -/
theorem test_reserved124_125 :
    (stepOf .blocks 4 12 0x664c61437c000000fff8c918).map (fun t => (t.cur, t.blocks, t.stopReason, t.phase, t.hdr))
      = some (8, [], .unsupported, .frame, ⟨0#1, 124#7, 0#24⟩) := by decide
/-- V41-13 with a frame header after it (R145). -/
theorem test_reserved126 :
    (stepOf .blocks 4 12 0x664c6143fe000000fff8c918).map (fun t => (t.cur, t.blocks, t.stopReason, t.phase, t.hdr))
      = some (8, [], .unsupported, .frame, ⟨1#1, 126#7, 0#24⟩) := by decide
/-- V41-16: type code 127 has no fault of its own. -/
theorem test_invalid :
    (stepOf .blocks 4 12 0x664c6143ff000000fff8c918).map (fun t => (t.cur, t.blocks, t.stopReason, t.phase, t.hdr))
      = some (8, [], .unsupported, .frame, ⟨1#1, 127#7, 0#24⟩) := by decide
/-- V41-17: the declared payload passes the end. -/
theorem test_unsupported_truncated :
    (stepOf .blocks 4 12 0x664c61430a000009fff8c918).map (fun t => (t.status, t.errKind)) = some (.failed, some .truncated) := by decide
/-- V44-3: `F9` sets the blocking-strategy flag. -/
theorem test_framehdr :
    (stepOf .frame 8 12 0x664c614381000000fff90000).map (fun t => (t.status, t.frame, t.cur))
      = some (.done, some ⟨0x3FFE#14, 0#1, 1#1, 0#4, 0#4, 0#4, 0#3, 0#1⟩, 12) := by decide
/-- V44-12: the sync is tested before the reserved bits. -/
theorem test_framehdr_sync_first :
    (stepOf .frame 8 12 0x664c614381000000fffe0001).map (fun t => (t.status, t.errKind)) = some (.failed, some .syncMismatch) := by decide
/-- V44-4. -/
theorem test_framehdrReserved1 :
    (stepOf .frame 8 12 0x664c614381000000fffa0000).map (fun t => (t.status, t.errKind)) = some (.failed, some .reservedBitSet) := by decide
/-- V44-6. -/
theorem test_framehdrReserved2 :
    (stepOf .frame 8 12 0x664c614381000000fff80001).map (fun t => (t.status, t.errKind)) = some (.failed, some .reservedBitSet) := by decide
/-- R140: the offset is noted before the cursor moves. -/
theorem test_fmtBlkhdr :
    (nextOf (exec (.fmtBlkhdr ⟨1#1, 1#7, 0#24⟩) (busy .blocks 4 12 0x664c614381000000fff80000))).map (fun t => (t.cur, t.hdrStart, t.sr5))
      = some (8, 4, 0x81000000#32) := by decide
/-- R160: 34 bytes. -/
theorem test_payStreaminfo :
    (nextOf (exec (.payStreaminfo siV) (busyOn .blocks 8 (beBytes 8 0 ++ siBytes)))).map (fun t => (t.cur, t.status))
      = some (42, .busy) := by decide
/-- V42-8: a record cut short. -/
theorem test_paySeekpoint_short :
    (nextOf (exec (.paySeekpoint ⟨0#64, 0#64, 0#16⟩) (busy .blocks 8 25 0))).map (fun t => t.errKind) = some (some .truncated) := by decide
/-- R123. -/
theorem test_payU32le :
    (nextOf (exec (.payU32le 26#32) (busy .blocks 8 12 0x1a000000))).map (fun t => t.cur) = some 12 := by decide
/-- R210: the validator alone moves the cursor. -/
theorem test_fmtFramehdr :
    (nextOf (exec (.fmtFramehdr ⟨0#1, 0#4, 0#4, 0#4, 0#3⟩) (busy .frame 8 12 0x664c614381000000fff80000))).map (fun t => (t.cur, t.status, t.frame))
      = some (12, .busy, none) := by decide

/-! ### The codec -/

/-- V40-11 to V40-14: a read inside, a read past the end, the empty read at the end, a read of one byte at the end. -/
theorem test_read :
    (Memory.ofBytes (beBytes 10 0x00010203040506070809)).read 6 4 = .ok [6#8, 7#8, 8#8, 9#8]
    ∧ (Memory.ofBytes (beBytes 10 0)).read 7 4 = .error .truncated
    ∧ (Memory.ofBytes (beBytes 10 0)).read 10 0 = .ok []
    ∧ (Memory.ofBytes (beBytes 10 0)).read 10 1 = .error .truncated := by decide
/-- V40-15 to V40-17. -/
theorem test_seek :
    (Memory.ofBytes (beBytes 10 0)).seek 10 = .ok 10 ∧ (Memory.ofBytes (beBytes 10 0)).seek 11 = .error .truncated
    ∧ (Memory.ofBytes (beBytes 10 0)).seek 6 = .ok 6 := by decide
/-- V40-18 and V40-19: accepted strings. -/
theorem test_utf8_valid :
    ([[], beBytes 1 0x41, beBytes 1 0x00, beBytes 2 0xc3a9, beBytes 3 0xe282ac, beBytes 4 0xf09f9880, beBytes 2 0xc280,
      beBytes 2 0xdfbf, beBytes 3 0xe0a080, beBytes 3 0xed9fbf, beBytes 3 0xee8080, beBytes 3 0xefbfbf,
      beBytes 4 0xf0908080, beBytes 4 0xf48fbfbf].all utf8WellFormed) = true := by decide
/-- V40-20 to V40-28: refused strings. -/
theorem test_utf8_invalid :
    ([beBytes 1 0x80, beBytes 1 0xbf, beBytes 2 0xc080, beBytes 2 0xc1bf, beBytes 3 0xe08080, beBytes 3 0xe09fbf,
      beBytes 3 0xeda080, beBytes 3 0xedbfbf, beBytes 4 0xf08f8080, beBytes 4 0xf4908080, beBytes 4 0xf5808080,
      beBytes 1 0xff, beBytes 1 0xfe, beBytes 5 0xf888808080, beBytes 1 0xc3, beBytes 2 0xe282, beBytes 3 0xf09f98,
      beBytes 2 0x41c3, beBytes 2 0xc328, beBytes 3 0xe28228].any utf8WellFormed) = false := by decide
/-- V43-9: the smallest source that parses. -/
theorem test_parse_smallest :
    parse Config.standard (beBytes 12 0x664c614381000000fff80000)
      = .done ⟨[⟨⟨1#1, 1#7, 0#24⟩, .padding 0#24⟩], none, none, none, some ⟨0x3FFE#14, 0#1, 0#1, 0#4, 0#4, 0#4, 0#3, 0#1⟩⟩
          .lastFlag 12 4 ⟨1#1, 1#7, 0#24⟩ := by decide
/-- The host's fetch word runs as the first instruction (log 10). -/
theorem test_withFetchWord :
    (nextOf (step (State.reset.withFetchWord 32 0x01000100))).map (fun t => (t.cur, t.blocks))
      = some (260, [⟨⟨0#1, 1#7, 256#24⟩, .padding 256#24⟩])
    ∧ (nextOf (step (State.reset.withFetchWord 272
      0x10001000_00000e_002f3a_0ac442f0_0012b3c4_0123456789abcdeffedcba9876543210))).map (fun t => t.blocks)
      = some [⟨⟨0#1, 0#7, 34#24⟩, .streamInfo siV⟩] := by decide

/-! ### Witnesses: the hypotheses of each obligation, met -/

/-- DecodeEncodeRoundTrip: a legal frame header, one with a bad sync, and a row whose operand is checked. -/
theorem witness_DecodeEncodeRoundTrip :
    Instr.wf (.framehdr ⟨0x3FFE#14, 0#1, 1#1, 15#4, 15#4, 15#4, 7#3, 0#1⟩) = true
    ∧ Instr.wf (.framehdr ⟨0x0000#14, 1#1, 1#1, 15#4, 15#4, 15#4, 7#3, 1#1⟩) = true
    ∧ Instr.wf (.framehdrReserved2 0#1 ⟨1#1, 15#4, 15#4, 15#4, 7#3⟩) = true := by decide

/-- TableRowIsTheDecodedRow: a row that a word matches, and a word with a good sync. -/
theorem witness_TableRowIsTheDecodedRow :
    (Instr.blkReserved8_15 0#1 2#3 2#24).context = .element .blocks
    ∧ (Instr.blkReserved8_15 0#1 2#3 2#24).row = some (0x78000000#32, 0x08000000#32)
    ∧ 0x0A000002#32 &&& 0x78000000#32 = 0x08000000#32
    ∧ (FrameHeaderRaw.ofWord 0xFFFB0001#32).sync = 0x3FFE#14 := by decide

/-- StreamInfoBitPositions and SeekPointBytes: byte strings of the lengths asked. -/
theorem witness_field_lengths :
    siBytes.length = 34 ∧ (beBytes 8 0x100000).length = 8 ∧ (beBytes 8 172467).length = 8
    ∧ (beBytes 2 4096).length = 2 := by decide

/-- ReadIsAllOrNothing: a read that ends at the end of the source, and one that ends a byte beyond (V40-11, V40-12). -/
theorem witness_ReadIsAllOrNothing :
    6 + 4 ≤ (Memory.ofBytes (beBytes 10 0)).len ∧ (Memory.ofBytes (beBytes 10 0)).len < 7 + 4 := by decide

/-- SourceHoldsTheBytesGiven: the last offset of a source. -/
theorem witness_SourceHoldsTheBytesGiven : 3 < (beBytes 4 0x664c6143).length := by decide

/-- EngineNeverWritesTheSource: an instruction and an engine step that answer with a parse still running. -/
theorem witness_EngineNeverWritesTheSource :
    (∃ t, exec (.magic 0x664C6143#32) (busy .magic 0 4 0x664c6143) = .next t ∧ t.status = .busy)
    ∧ ∃ t, engineStep (busy .magic 0 4 0x664c6143) = .next t ∧ t.status = .busy := ⟨⟨_, rfl, rfl⟩, _, rfl, rfl⟩

/-- BytesConsumedByPayloadDecoders: each of the four decoders answers, Padding with a skip to the very end of the source
(V42-1, V42-5, V42-15, V42-14). -/
theorem witness_BytesConsumedByPayloadDecoders :
    (∃ si c, decodeStreamInfo (Memory.ofBytes (List.replicate 34 0#8)) 0 = .ok (si, c))
    ∧ (∃ ps c, decodeSeekTable (Memory.ofBytes (List.replicate 18 0#8)) 18#24 0 = .ok (ps, c))
    ∧ (∃ vc c, decodeVorbisComment Config.standard (Memory.ofBytes (List.replicate 8 0#8)) 0 = .ok (vc, c))
    ∧ let s := (busy .blocks 4 13 0).afterHeader ⟨1#1, 1#7, 5#24⟩
      s.cur = s.hdrStart + 4 ∧ ∃ n c, decodePadding s.src s.blockEnd s.hdr.length = .ok (n, c) :=
  ⟨⟨_, _, rfl⟩, ⟨_, _, rfl⟩, ⟨_, _, rfl⟩, rfl, _, _, rfl⟩

/-- SignatureCheck: room for exactly four bytes with the right and a wrong signature, and room for three (V43-2, V43-4,
V43-5). -/
theorem witness_SignatureCheck :
    (busy .magic 0 4 0x664c6143).cur + 4 ≤ (busy .magic 0 4 0x664c6143).src.len
    ∧ 0x664C6143#32 = (busy .magic 0 4 0x664c6143).cfg.magic ∧ 0x666C6163#32 ≠ (busy .magic 0 4 0x666c6163).cfg.magic
    ∧ (busy .magic 0 3 0x664c61).src.len < (busy .magic 0 3 0x664c61).cur + 4 := by decide

/-- StreamInfoBlockCompletes: a payload that ends the source, with a length of 0, a declared length of 36 that does, and a
payload cut a byte short (V41-19, V41-20, V42-4). -/
theorem witness_StreamInfoBlockCompletes :
    ((busy .blocks 4 42 0).cur + 38 ≤ (busy .blocks 4 42 0).src.len
      ∧ (busy .blocks 4 42 0).cur + 4 + (0#24).toNat ≤ (busy .blocks 4 42 0).src.len)
    ∧ (busy .blocks 4 44 0).cur + 38 ≤ (busy .blocks 4 44 0).src.len
      ∧ (busy .blocks 4 44 0).cur + 4 + (36#24).toNat ≤ (busy .blocks 4 44 0).src.len
      ∧ (busy .blocks 4 41 0).src.len < (busy .blocks 4 41 0).cur + 38 := by decide

/-- PaddingBlockSkips: a skip to the end, and one a byte beyond it (V42-13, V42-14). -/
theorem witness_PaddingBlockSkips :
    (busy .blocks 4 13 0).cur + 4 + (5#24).toNat ≤ (busy .blocks 4 13 0).src.len
    ∧ (busy .blocks 4 12 0).src.len < (busy .blocks 4 12 0).cur + 4 + (5#24).toNat := by decide

/-- SeekTableBlockCompletes: no record, and one record that ends the source (V42-9, V42-5). -/
theorem witness_SeekTableBlockCompletes :
    ((0#24).toNat % 18 = 0 ∧ (busy .blocks 4 8 0).cur + 4 + (0#24).toNat ≤ (busy .blocks 4 8 0).src.len)
    ∧ (18#24).toNat % 18 = 0 ∧ (busy .blocks 4 26 0).cur + 4 + (18#24).toNat ≤ (busy .blocks 4 26 0).src.len := by
  decide

/-- SeekTableLengthTestFirst: a bad length with nothing after the header, and a good one cut a byte short (V42-6, V42-8). -/
theorem witness_SeekTableLengthTestFirst :
    ((busy .blocks 4 8 0).cur + 4 ≤ (busy .blocks 4 8 0).src.len ∧ (19#24).toNat % 18 ≠ 0)
    ∧ (18#24).toNat % 18 = 0 ∧ (busy .blocks 4 25 0).src.len < (busy .blocks 4 25 0).cur + 4 + (18#24).toNat := by decide

/-- A source with a VorbisComment header and payload at offset 4, and what follows. -/
def vorbisState (header : Nat) (payload rest : List Byte) : State :=
  busyOn .blocks 4 (beBytes 4 0x664c6143 ++ beBytes 4 header ++ payload ++ rest)

/-- VorbisCommentBlockCompletes: the payload of S4 with its own length, and with a declared length of 8, an over-read. -/
theorem witness_VorbisCommentBlockCompletes :
    vcVendor.length < 2 ^ 32 ∧ vcComments.length < 2 ^ 32 ∧ (∀ c ∈ vcComments, c.length < 2 ^ 32)
    ∧ Config.standard.utf8Valid vcVendor = true ∧ (∀ c ∈ vcComments, Config.standard.utf8Valid c = true)
    ∧ (let s := vorbisState 0x8400001a (vorbisBytes vcVendor vcComments) []
       s.cfg = Config.standard ∧ s.cur + 4 + (vorbisBytes vcVendor vcComments).length ≤ s.src.len
       ∧ s.src.bytes (s.cur + 4) (vorbisBytes vcVendor vcComments).length = vorbisBytes vcVendor vcComments
       ∧ s.cur + 4 + (26#24).toNat ≤ s.src.len ∧ s.cur + 4 + (8#24).toNat ≤ s.src.len) := by decide

/-- InvalidVendorRaises: the vendor `80` with nothing after it (V42-18). -/
theorem witness_InvalidVendorRaises :
    let s := vorbisState 0x84000009 (stringBytes [0x80#8]) []
    [0x80#8].length < 2 ^ 32 ∧ s.cfg.utf8Valid [0x80#8] = false ∧ s.cur + 4 + (stringBytes [0x80#8]).length ≤ s.src.len
    ∧ s.src.bytes (s.cur + 4) (stringBytes [0x80#8]).length = stringBytes [0x80#8] := by decide

/-- InvalidCommentRaises: no vendor, one good comment, then `c3 28`, of a count of two (V42-19). -/
theorem witness_InvalidCommentRaises :
    let payload := stringBytes [] ++ leBytes 4 (2#32).toNat ++ ([[0x41#8]].map stringBytes).flatten
      ++ stringBytes [0xC3#8, 0x28#8]
    let s := vorbisState 0x8400000e payload []
    ([] : List Byte).length < 2 ^ 32 ∧ [0xC3#8, 0x28#8].length < 2 ^ 32 ∧ (∀ c ∈ [[0x41#8]], c.length < 2 ^ 32)
    ∧ s.cfg.utf8Valid [] = true ∧ (∀ c ∈ [[0x41#8]], s.cfg.utf8Valid c = true)
    ∧ s.cfg.utf8Valid [0xC3#8, 0x28#8] = false ∧ [[0x41#8]].length < (2#32).toNat
    ∧ s.cur + 4 + payload.length ≤ s.src.len ∧ s.src.bytes (s.cur + 4) payload.length = payload := by decide

/-- CutVendorIsTruncated: a vendor length cut a byte short, and a vendor length of 5 with two bytes left, then with four
(V42-20). -/
theorem witness_CutVendorIsTruncated :
    (busy .blocks 4 11 0).src.len < (busy .blocks 4 11 0).cur + 8
    ∧ (let s := vorbisState 0x84000009 (leBytes 4 5 ++ beBytes 2 0x4142) []
       s.cur + 8 ≤ s.src.len ∧ s.src.len < s.cur + 8 + (u32le (s.src.bytes (s.cur + 4) 4)).toNat)
    ∧ (let s := vorbisState 0x84000008 (leBytes 4 5 ++ beBytes 4 0x41424344) []
       s.cur + 8 ≤ s.src.len ∧ s.src.len < s.cur + 8 + (u32le (s.src.bytes (s.cur + 4) 4)).toNat) := by decide

/-- CutCommentIsTruncated: the vendor "ref" and a count cut a byte short. -/
theorem witness_CutCommentIsTruncated_count :
    let s := vorbisState 0x84000000 (stringBytes vcVendor) [0#8, 0#8, 0#8]
    vcVendor.length < 2 ^ 32 ∧ s.cfg.utf8Valid vcVendor = true
    ∧ s.cur + 4 + (stringBytes vcVendor).length ≤ s.src.len
    ∧ s.src.bytes (s.cur + 4) (stringBytes vcVendor).length = stringBytes vcVendor
    ∧ s.src.len < s.cur + 4 + (stringBytes vcVendor).length + 4 := by decide

/-- CutCommentIsTruncated: the vendor "ref", two comments of a count of three, and what the source ends with; `tail` is
cut in the third comment's length or in its bytes. -/
def cutCommentState (tail : List Byte) : State :=
  vorbisState 0x84000000 (stringBytes vcVendor ++ leBytes 4 (3#32).toNat ++ (vcComments.map stringBytes).flatten) tail

/-- CutCommentIsTruncated: the third comment's length a byte short, and two bytes of the five it announces. -/
theorem witness_CutCommentIsTruncated_comment :
    let front := stringBytes vcVendor ++ leBytes 4 (3#32).toNat ++ (vcComments.map stringBytes).flatten
    let s1 := cutCommentState [0#8, 0#8, 0#8]
    let s2 := cutCommentState (leBytes 4 5 ++ beBytes 2 0xc328)
    let here := s1.cur + 4 + front.length
    (∀ c ∈ vcComments, c.length < 2 ^ 32) ∧ (∀ c ∈ vcComments, Config.standard.utf8Valid c = true)
    ∧ vcComments.length < (3#32).toNat ∧ s1.cfg = Config.standard ∧ s2.cfg = Config.standard ∧ s2.cur = s1.cur
    ∧ (here ≤ s1.src.len ∧ s1.src.bytes (s1.cur + 4) front.length = front ∧ s1.src.len < here + 4)
    ∧ here ≤ s2.src.len ∧ s2.src.bytes (s2.cur + 4) front.length = front ∧ here + 4 ≤ s2.src.len
      ∧ s2.src.len < here + 4 + (u32le (s2.src.bytes here 4)).toNat := by decide

/-- UnsupportedBlocksEndTheLoop: a payload that ends the source. -/
theorem witness_UnsupportedBlocksEndTheLoop :
    (busy .blocks 4 11 0).cur + 4 + (3#24).toNat ≤ (busy .blocks 4 11 0).src.len := by decide

/-- OverlongBlockFaults: the longest length (V41-18). -/
theorem witness_OverlongBlockFaults :
    Instr.blockHeader (.blkInvalid 0#1 16777215#24) = some ⟨0#1, 127#7, 16777215#24⟩
    ∧ (busy .blocks 4 12 0).src.len < (busy .blocks 4 12 0).cur + 4 + (16777215#24).toNat := by decide

/-- FrameHeaderAccepted: a legal header that ends the source (V44-8). -/
theorem witness_FrameHeaderAccepted :
    let f : FrameHeaderRaw := ⟨0x3FFE#14, 0#1, 1#1, 15#4, 15#4, 15#4, 7#3, 0#1⟩
    (busy .frame 8 12 0).cur + 4 ≤ (busy .frame 8 12 0).src.len ∧ f.sync = 0x3FFE#14 ∧ f.reserved1 = 0#1
    ∧ f.reserved2 = 0#1 := by decide

/-- FrameHeaderFaults: four bytes and a bad sync, and three bytes (V44-9, V43-8). -/
theorem witness_FrameHeaderFaults :
    (busy .frame 8 12 0).cur + 4 ≤ (busy .frame 8 12 0).src.len
    ∧ (FrameHeaderRaw.ofWord 0xFFFC0000#32).sync ≠ 0x3FFE#14
    ∧ (busy .frame 8 11 0).src.len < (busy .frame 8 11 0).cur + 4 := by decide

/-- FieldGroupsComplete and FieldGroupsTruncated: groups of 4, 34 and 18 bytes that end the source, and that miss a byte. -/
theorem witness_FieldGroups :
    (busy .blocks 8 12 0).cur + 4 ≤ (busy .blocks 8 12 0).src.len
    ∧ (busy .blocks 8 42 0).cur + 34 ≤ (busy .blocks 8 42 0).src.len
    ∧ (busy .blocks 8 26 0).cur + 18 ≤ (busy .blocks 8 26 0).src.len
    ∧ (busy .blocks 8 11 0).src.len < (busy .blocks 8 11 0).cur + 4
    ∧ (busy .blocks 8 41 0).src.len < (busy .blocks 8 41 0).cur + 34
    ∧ (busy .blocks 8 25 0).src.len < (busy .blocks 8 25 0).cur + 18 := by decide

/-- PayloadDecodersUseTheFieldGroups: groups that end the source. -/
theorem witness_PayloadDecodersUseTheFieldGroups :
    8 + 34 ≤ (Memory.ofBytes (beBytes 42 0)).len ∧ 8 + 18 ≤ (Memory.ofBytes (beBytes 26 0)).len
    ∧ 8 + 4 ≤ (Memory.ofBytes (beBytes 12 0)).len := by decide

/-- HeaderRegisters: a header that ends the source. -/
theorem witness_HeaderRegisters : (busy .blocks 4 8 0).cur + 4 ≤ (busy .blocks 4 8 0).src.len := by decide

/-- StreamInfoBlockIsItsFieldGroups: the two groups run one after the other on a source that holds `SI`. -/
theorem witness_StreamInfoBlockIsItsFieldGroups :
    let s := busyOn .blocks 4 (beBytes 8 0x664c614380000022 ++ siBytes)
    s.cur + 38 ≤ s.src.len ∧ s.cur + 4 + (34#24).toNat ≤ s.src.len
    ∧ ∃ t1 t2, exec (.fmtBlkhdr ⟨1#1, 0#7, 34#24⟩) s = .next t1
      ∧ decode (.group .streamInfo) (t1.src.bytes t1.cur 34) = .ok (.payStreaminfo siV, [])
      ∧ exec (.payStreaminfo siV) t1 = .next t2 :=
  ⟨by decide, by decide, _, _, rfl, by decide, rfl⟩

/-- BlockStepResynchronises and BlockStepFrame: a block step that completes, with a decoder and without one. -/
theorem witness_BlockSteps :
    (Instr.blockHeader (.blkPadding 1#1 0#24) = some ⟨1#1, 1#7, 0#24⟩
      ∧ ∃ t, exec (.blkPadding 1#1 0#24) (busy .blocks 4 8 0) = .next t ∧ t.status = .busy)
    ∧ Instr.blockHeader (.blkInvalid 0#1 0#24) = some ⟨0#1, 127#7, 0#24⟩
      ∧ ∃ t, exec (.blkInvalid 0#1 0#24) (busy .blocks 4 8 0) = .next t ∧ t.status = .busy :=
  ⟨⟨rfl, _, rfl, rfl⟩, rfl, _, rfl, rfl⟩

/-- OtherElementsFrame: an element of each kind that completes. -/
theorem witness_OtherElementsFrame :
    (Instr.blockHeader (.magic 0x664C6143#32) = none
      ∧ ∃ t, exec (.magic 0x664C6143#32) (busy .magic 0 4 0) = .next t ∧ t.phase = .blocks)
    ∧ (Instr.blockHeader (.fmtBlkhdr ⟨1#1, 1#7, 0#24⟩) = none
      ∧ ∃ t, exec (.fmtBlkhdr ⟨1#1, 1#7, 0#24⟩) (busy .blocks 4 8 0) = .next t ∧ t.hdrStart = 4)
    ∧ Instr.blockHeader (.framehdr ⟨0x3FFE#14, 0#1, 0#1, 0#4, 0#4, 0#4, 0#3, 0#1⟩) = none
      ∧ ∃ t, exec (.framehdr ⟨0x3FFE#14, 0#1, 0#1, 0#4, 0#4, 0#4, 0#3, 0#1⟩) (busy .frame 8 12 0) = .next t
        ∧ t.status = .done :=
  ⟨⟨rfl, _, rfl, rfl⟩, ⟨rfl, _, rfl, rfl⟩, rfl, _, rfl, rfl⟩

/-- SkippedPayloadsAreNotRead: a Padding and an unsupported block, and another source of the same length. -/
theorem witness_SkippedPayloadsAreNotRead :
    (1#7 ≠ 0#7 ∧ 1#7 ≠ 3#7 ∧ 1#7 ≠ 4#7) ∧ (10#7 ≠ 0#7 ∧ 10#7 ≠ 3#7 ∧ 10#7 ≠ 4#7)
    ∧ Instr.blockHeader (.blkPadding 1#1 3#24) = some ⟨1#1, 1#7, 3#24⟩
    ∧ Instr.blockHeader (.blkReserved8_15 0#1 2#3 3#24) = some ⟨0#1, 10#7, 3#24⟩
    ∧ (Memory.ofBytes (beBytes 11 0xaabbcc)).len = (busy .blocks 4 11 0).src.len
    ∧ (∃ t, exec (.blkPadding 1#1 3#24) (busy .blocks 4 11 0) = .next t ∧ t.cur = 11)
    ∧ ∃ t, exec (.blkReserved8_15 0#1 2#3 3#24) (busy .blocks 4 11 0) = .next t ∧ t.cur = 11 :=
  ⟨by decide, by decide, rfl, rfl, rfl, ⟨_, rfl, rfl⟩, _, rfl, rfl⟩

/-- FaultsByElement: an element that enters a fault. -/
theorem witness_FaultsByElement :
    (busy .blocks 4 8 0).status ≠ .failed
    ∧ ∃ t, exec (.blkSeektable 1#1 19#24) (busy .blocks 4 8 0) = .next t ∧ t.status = .failed :=
  ⟨by decide, _, rfl, rfl⟩

/-- A machine whose host is about to make one move. -/
def withMove (s : State) (m : HostMove) : State := { s with host := [m] }

/-- StartBeginsAParse: a machine that takes START, and one that is Busy. -/
theorem witness_StartBeginsAParse :
    (withMove State.reset (.start [])).host = .start [] :: [] ∧ (withMove State.reset (.start [])).status ≠ .busy
    ∧ (withMove (busy .blocks 4 8 0) (.start [])).host = .start [] :: []
    ∧ (withMove (busy .blocks 4 8 0) (.start [])).status = .busy := by decide

/-- StartForgetsEarlierParses: a machine after reset and one after a fault. -/
theorem witness_StartForgetsEarlierParses :
    let s1 := withMove State.reset (.start [0x66#8])
    let s2 := withMove ((busy .blocks 4 8 0).raise .truncated) (.start [0x66#8])
    s1.status ≠ .busy ∧ s2.status ≠ .busy ∧ s1.cfg = s2.cfg ∧ s1.host = .start [0x66#8] :: []
    ∧ s2.host = .start [0x66#8] :: [] ∧ s1 ≠ s2 := by decide

/-- ResetEvent: a reset in the middle of a parse. -/
theorem witness_ResetEvent : (withMove (busy .blocks 4 8 0) .reset).host = .reset :: [] := by decide

/-- NoReadWhileBusy: a machine of each kind, with and without the read as the host's move. -/
theorem witness_NoReadWhileBusy :
    ((withMove (busy .blocks 4 8 0) .readResult).host = .readResult :: []
      ∧ (withMove (busy .blocks 4 8 0) .readResult).status = .busy)
    ∧ (withMove State.reset .readResult).host = .readResult :: []
      ∧ (withMove State.reset .readResult).status ≠ .busy
    ∧ (withMove (busy .blocks 4 8 0) .readStatus).host = .readStatus :: [] := by decide

/-- StableUntilStartOrReset: a silent host, and moves that are neither. -/
theorem witness_StableUntilStartOrReset :
    State.reset.status ≠ .busy ∧ State.reset.host = []
    ∧ (withMove State.reset .changeSource).host = .changeSource :: [] ∧ HostMove.changeSource ≠ .reset
    ∧ ∀ b, HostMove.changeSource ≠ .start b := ⟨by decide, rfl, rfl, by decide, fun _ => by simp⟩

/-- HostStopsWhileBusy: each move, while a parse runs and while none does. -/
theorem witness_HostStopsWhileBusy :
    (withMove (busy .blocks 4 8 0) .changeSource).status = .busy
    ∧ (withMove (busy .blocks 4 8 0) .changeSource).host = .changeSource :: []
    ∧ (withMove (busy .blocks 4 8 0) .stopAnswering).host = .stopAnswering :: []
    ∧ (withMove State.reset .stopAnswering).status ≠ .busy
    ∧ (withMove State.reset .stopAnswering).host = .stopAnswering :: [] := by decide

/-- StatusTransitions: a step to Idle, one to Busy, one to Done and one to Failed. -/
theorem witness_StatusTransitions :
    (∃ t, step (withMove (busy .blocks 4 8 0) .reset) = .next t ∧ t.status = .idle ∧ t.status ≠ .busy)
    ∧ (∃ t, step (withMove State.reset (.start [])) = .next t ∧ t.status = .busy ∧ t.status ≠ State.reset.status)
    ∧ (∃ t, step (busy .frame 8 12 0xfff80000) = .next t ∧ t.status = .done ∧ t.status ≠ .busy)
    ∧ ∃ t, step (busy .frame 8 12 0) = .next t ∧ t.status = .failed ∧ t.status ≠ .busy :=
  ⟨⟨_, rfl, by decide⟩, ⟨_, rfl, by decide⟩, ⟨_, rfl, by decide⟩, _, rfl, by decide⟩

/-- StepRunsTheDecodedElement: four bytes that end the source, the host silent and the host letting the engine move. -/
theorem witness_StepRunsTheDecodedElement :
    let s := busy .blocks 4 8 0x664c614381000000
    s.status = .busy ∧ s.cur + 4 ≤ s.src.len
    ∧ decode (.element s.phase) (s.src.bytes s.cur 4) = .ok (.blkPadding 1#1 0#24, []) ∧ s.host = []
    ∧ (withMove s .nothing).host = .nothing :: [] := by decide

/-- StepWithoutFourBytesIsTruncated: three bytes left. -/
theorem witness_StepWithoutFourBytesIsTruncated :
    let s := busy .blocks 4 7 0x664c6143810000
    s.status = .busy ∧ s.host = [] ∧ s.src.len < s.cur + 4 := by decide

/-- StepKeepsInv: a running parse past the signature, and past a Padding block that ended the loop, and the step of each. -/
theorem witness_StepKeepsInv :
    (busy .blocks 4 12 0x664c614381000000fff80000).Inv
    ∧ (∃ t, step (busy .blocks 4 12 0x664c614381000000fff80000) = .next t ∧ t.phase = .frame)
    ∧ ((busy .blocks 4 12 0x664c614381000000fff80000).afterBlock ⟨1#1, 1#7, 0#24⟩ (some (.padding 0#24))).Inv
    ∧ ∃ t, step ((busy .blocks 4 12 0x664c614381000000fff80000).afterBlock ⟨1#1, 1#7, 0#24⟩ (some (.padding 0#24)))
        = .next t ∧ t.status = .done :=
  ⟨⟨by decide, by decide, by decide, by decide, by decide⟩, ⟨_, rfl, rfl⟩,
    ⟨by decide, by decide, by decide, by decide, by decide⟩, _, rfl, rfl⟩

/-- ParseEnds: a parse at its start, and one with nothing left to read. -/
theorem witness_ParseEnds :
    ((busy .magic 0 12 0x664c614381000000fff80000).status = .busy ∧ (busy .magic 0 12 0x664c614381000000fff80000).host = [])
    ∧ (busy .blocks 4 4 0x664c6143).status = .busy ∧ (busy .blocks 4 4 0x664c6143).host = [] := by decide

/-- StepsComputeParse: START from reset, and from a machine that is Failed. -/
theorem witness_StepsComputeParse :
    ((withMove State.reset (.start (beBytes 12 0x664c614381000000fff80000))).status ≠ .busy
      ∧ (withMove State.reset (.start (beBytes 12 0x664c614381000000fff80000))).host
        = [.start (beBytes 12 0x664c614381000000fff80000)])
    ∧ (withMove (State.reset.raise .truncated) (.start [])).status ≠ .busy
      ∧ (withMove (State.reset.raise .truncated) (.start [])).host = [.start []] := by decide

/-- ShortSourcesFail: eleven bytes (V43-8). -/
theorem witness_ShortSourcesFail : (beBytes 11 0x664c614381000000fff800).length < 12 := by decide

/-- LookupsFindTheFirst: a store in which each look-up finds a block that is not the only one of its kind (V43-12). -/
theorem witness_LookupsFindTheFirst :
    let vc : MetadataBlock := ⟨⟨0#1, 4#7, 8#24⟩, .vorbisComment ⟨[], []⟩⟩
    let st : MetadataBlock := ⟨⟨0#1, 3#7, 0#24⟩, .seekTable []⟩
    let s := { busy .frame 8 12 0 with blocks := [vc, st, ⟨⟨0#1, 0#7, 34#24⟩, .streamInfo siV⟩, vc, st] }
    (s.lookups.refStreamInfo, s.lookups.refSeekTable, s.lookups.refVorbisComment) = (some 2, some 1, some 0) := by decide

end Sys2Proof.Tests
end

section
/-! PROOFS. Decoding a word drops no bit: each header record's word is inverse to its reading, every header row encodes the
header it carries, and a frame header is read by the row whose own word it is (R83, R89, R93). -/

namespace Sys2Proof

/-- The three fields of R83 make up the whole word. -/
theorem BlockHeader.word_ofWord (W : Word) : (BlockHeader.ofWord W).word = W := by
  have hW := W.isLt
  apply BitVec.eq_of_toNat_eq
  simp only [BlockHeader.word, BlockHeader.ofWord_isLast, BlockHeader.ofWord_blockType, BlockHeader.ofWord_length,
    slice_toNat, BitVec.toNat_ofNat]
  omega

/-- The eight fields of R89 make up the whole word. -/
theorem FrameHeaderRaw.word_ofWord (W : Word) : (FrameHeaderRaw.ofWord W).word = W := by
  have hW := W.isLt
  apply BitVec.eq_of_toNat_eq
  simp only [FrameHeaderRaw.word, FrameHeaderRaw.ofWord_sync, FrameHeaderRaw.ofWord_reserved1,
    FrameHeaderRaw.ofWord_blockingStrategy, FrameHeaderRaw.ofWord_blockSizeCode, FrameHeaderRaw.ofWord_sampleRateCode,
    FrameHeaderRaw.ofWord_channelCfgCode, FrameHeaderRaw.ofWord_sampleSizeCode, FrameHeaderRaw.ofWord_reserved2,
    slice_toNat, BitVec.toNat_ofNat]
  omega

/-- An instruction with a block header is a BLK row: it is well formed whatever its operands, applies in phase Blocks, and
encodes that header. -/
theorem Instr.wf_context_encode_of_blockHeader {i : Instr} {h : BlockHeader} (hi : i.blockHeader = some h) :
    i.wf = true ∧ i.context = .element .blocks ∧ encode i = beBytes 4 h.word.toNat := by
  cases i <;> simp only [Instr.blockHeader, Option.some.injEq, reduceCtorEq] at hi <;> subst hi <;>
    exact ⟨rfl, rfl, rfl⟩

/-- An instruction with a frame header encodes that header. -/
theorem encode_of_frameHeader {i : Instr} {f : FrameHeaderRaw} (hi : i.frameHeader = some f) :
    encode i = beBytes 4 f.word.toNat := by
  cases i <;> simp only [Instr.frameHeader, Option.some.injEq, reduceCtorEq] at hi <;> subst hi <;> rfl

/-- A frame header is read by the row whose own word it is: FRAMEHDR gets a good sync only with both reserved bits 0, and
FRAMEHDR.RESERVED2 only what FRAMEHDR.RESERVED1 left, reserved1 = 0 (R93, log 8). -/
theorem decodeFramehdr_wf (f : FrameHeaderRaw) : (decodeFramehdr f).wf = true := by
  unfold decodeFramehdr
  split_ifs with hsync h1 h2
  · rfl
  · have hr1 := (BitVec.eq_zero_or_eq_one f.reserved1).resolve_right h1
    simp [Instr.wf, hr1]
  · have hr1 := (BitVec.eq_zero_or_eq_one f.reserved1).resolve_right h1
    have hr2 := (BitVec.eq_zero_or_eq_one f.reserved2).resolve_right h2
    simp [Instr.wf, FrameHeaderRaw.reservedClear, hr1, hr2]
  · simp [Instr.wf, hsync]

/-- Settles O2, phase by phase: the signature is its own word, and in the other two phases the decoded row carries the
word's header, whose word is the word itself. -/
theorem encodeDecodedWord : Obligations.EncodeDecodedWord := by
  intro p W
  cases p with
  | magic => exact ⟨rfl, rfl, rfl⟩
  | blocks =>
    have h := Instr.wf_context_encode_of_blockHeader (decodeBlkhdr_blockHeader (BlockHeader.ofWord W))
    rwa [BlockHeader.word_ofWord] at h
  | frame =>
    obtain ⟨hf, hc⟩ := decodeFramehdr_frameHeader (FrameHeaderRaw.ofWord W)
    have he := encode_of_frameHeader hf
    rw [FrameHeaderRaw.word_ofWord] at he
    exact ⟨decodeFramehdr_wf _, hc, he⟩

end Sys2Proof
end

section
/-! PROOFS. What a whole step can be: a move of the host inverted into its three outcomes, an engine step into its four
(R190, R191, R260); and what follows for the status and the registers at once. -/

namespace Sys2Proof.Machine

variable {s t : State}

/-! ### A move of the host -/

/-- A move of the host that is taken resets, starts a parse in a machine that is not Busy, or changes nothing (R20, R21,
R237, R260). -/
theorem hostMove_cases {m : HostMove} (h : hostMove m s = .next t) :
    (m = .reset ∧ t = s.resetEvent) ∨ (∃ bytes, m = .start bytes ∧ s.status ≠ .busy ∧ t = s.start bytes) ∨ t = s := by
  cases m with
  | reset => exact .inl ⟨rfl, by simpa [hostMove] using h.symm⟩
  | start bytes => cases hs : s.status <;> simp_all [hostMove]
  | nothing | readStatus => exact .inr (.inr (by simpa [hostMove] using h.symm))
  | readResult | changeSource | stopAnswering => cases hs : s.status <;> simp_all [hostMove, State.hostRead]

/-- Outside a parse a move that neither resets nor starts changes nothing (R44, R229). -/
theorem hostMove_not_busy {m : HostMove} (hs : s.status ≠ .busy) (hr : m ≠ .reset) (hb : ∀ b, m ≠ .start b) :
    hostMove m s = .next s := by
  cases m with
  | reset => exact absurd rfl hr
  | start bytes => exact absurd rfl (hb bytes)
  | nothing | readStatus => rfl
  | readResult | changeSource | stopAnswering => cases h : s.status <;> simp_all [hostMove, State.hostRead]

/-- With the host's next move `nothing`, a step takes it off the list and is the engine's. -/
theorem step_nothing {rest : List HostMove} (hh : s.host = .nothing :: rest) :
    step s = engineStep { s with host := rest } := by
  simp [step, hh]

/-- Any other next move is what the step does. -/
theorem step_move {m : HostMove} {rest : List HostMove} (hh : s.host = m :: rest) (hm : m ≠ .nothing) :
    step s = hostMove m { s with host := rest } := by
  cases m <;> simp_all [step]

/-- A step is one of the engine, where the host does nothing, or one move of the host. -/
theorem step_cases (h : step s = .next t) :
    ((s.host = [] ∨ s.host.head? = some .nothing) ∧ engineStep { s with host := s.host.tail } = .next t)
    ∨ ∃ m rest, s.host = m :: rest ∧ hostMove m { s with host := rest } = .next t := by
  cases hh : s.host with
  | nil =>
    have hs : { s with host := [] } = s := by rw [← hh]
    exact .inl ⟨.inl rfl, by rw [List.tail_nil, hs, ← step_silent hh, h]⟩
  | cons m rest =>
    by_cases hm : m = .nothing
    · subst hm
      exact .inl ⟨.inr rfl, by rw [List.tail_cons, ← step_nothing hh, h]⟩
    · exact .inr ⟨m, rest, rfl, by rw [← step_move hh hm, h]⟩

/-! ### A step of the engine -/

/-- The word at the cursor, inside the source and past its end. -/
theorem State.wordAt_inside (h : s.cur + 4 ≤ s.src.len) : s.wordAt = .ok (groupWord 32 (s.src.bytes s.cur 4)) := by
  simp [State.wordAt, Memory.read_eq_ok.2 ⟨h, rfl⟩]

theorem State.wordAt_short (h : ¬ s.cur + 4 ≤ s.src.len) : s.wordAt = .error .truncated := by
  simp [State.wordAt, Memory.read_eq_error.2 ⟨not_le.1 h, rfl⟩]

/-- A step of the engine while Busy enters a fault, or completes the phase's element: the signature, a block, or the frame
header (R191). -/
theorem engineStep_cases (hb : s.status = .busy) (h : engineStep s = .next t) :
    (∃ k, t = s.raise k)
    ∨ (s.phase = .magic ∧ s.cur + 4 ≤ s.src.len ∧ t = { s with cur := s.cur + 4, phase := .blocks })
    ∨ (s.phase = .blocks ∧ ∃ h r c, s.cur + 4 + h.length.toNat ≤ s.src.len
        ∧ (s.afterHeader h).decodePayload = .ok (r, c) ∧ t = s.afterBlock h r)
    ∨ (s.phase = .frame ∧ ∃ f, s.cur + 4 ≤ s.src.len ∧ f.valid = true
        ∧ t = { s.lookups with cur := s.cur + 4, frame := some f, status := .done }) := by
  rw [engineStep_eq hb, Host.Outcome.next.injEq] at h
  subst h
  split_ifs with hc
  · cases hp : s.phase with
    | magic =>
      rcases State.orRaise_cases s (s.validateMagic (groupWord 32 (s.src.bytes s.cur 4))) with hok | ⟨k, -, hk⟩
      · obtain ⟨-, -, ht⟩ := State.validateMagic_eq_ok.1 hok
        exact .inr (.inl ⟨rfl, hc, ht⟩)
      · exact .inl ⟨k, hk⟩
    | blocks =>
      rcases State.blocksStep_cases s (BlockHeader.ofWord (groupWord 32 (s.src.bytes s.cur 4))) with hok | ⟨k, -, hk⟩
      · obtain ⟨he, r, c, hr, ht⟩ := State.tryBlocksStep_eq_ok.1 hok
        rw [State.loopTest_after] at ht
        exact .inr (.inr (.inl ⟨rfl, _, r, c, he, hr, ht⟩))
      · exact .inl ⟨k, hk⟩
    | frame =>
      rcases State.frameStep_cases s (FrameHeaderRaw.ofWord (groupWord 32 (s.src.bytes s.cur 4))) with hok | ⟨k, -, hk⟩
      · obtain ⟨-, hv, ht⟩ := State.tryFrameStep_eq_ok.1 hok
        exact .inr (.inr (.inr ⟨rfl, _, hc, hv, ht⟩))
      · exact .inl ⟨k, hk⟩
  · exact .inl ⟨_, rfl⟩

/-- A step of the engine while Busy ends the parse, or goes on with the same source at least four bytes further, bytes it
found there (R45 (c)). -/
theorem engineStep_progress (hb : s.status = .busy) (h : engineStep s = .next t) :
    t.ended ∨ (t.status = .busy ∧ t.src = s.src ∧ t.host = s.host ∧ s.cur + 4 ≤ t.cur ∧ s.cur + 4 ≤ s.src.len) := by
  rcases engineStep_cases hb h with ⟨k, rfl⟩ | ⟨-, hc, rfl⟩ | ⟨-, h, r, c, he, -, rfl⟩ | ⟨-, f, -, -, rfl⟩
  · exact .inl (.inr rfl)
  · exact .inr ⟨hb, rfl, rfl, le_rfl, hc⟩
  · exact .inr ⟨hb, rfl, rfl, Nat.le_add_right _ _, by omega⟩
  · exact .inl (.inl rfl)

end Sys2Proof.Machine

namespace Sys2Proof

open Machine

/-- Settles O49, move by move: a step of the engine leaves STATUS Busy or ends the parse, and of the host's moves only reset
and START write STATUS. -/
theorem statusTransitions : Obligations.StatusTransitions := by
  intro s t h hne
  rcases step_cases h with ⟨hsilent, he⟩ | ⟨m, rest, hh, hm⟩
  · by_cases hb : s.status = .busy
    · rcases engineStep_progress (s := { s with host := s.host.tail }) hb he with hend | ⟨hbusy, -⟩
      · exact .inr (.inr ⟨hb, hend, hsilent⟩)
      · exact absurd (hbusy.trans hb.symm) hne
    · rw [engineStep_not_busy (s := { s with host := s.host.tail }) hb, Host.Outcome.next.injEq] at he
      exact absurd (he ▸ rfl) hne
  · rcases hostMove_cases hm with ⟨rfl, rfl⟩ | ⟨bytes, rfl, hidle, rfl⟩ | rfl
    · exact .inl ⟨rfl, by simp [hh]⟩
    · exact .inr (.inl ⟨rfl, hidle, bytes, by simp [hh]⟩)
    · exact absurd rfl hne

/-- Settles O33: the header is decoded whole, and its word is the word it was read from. -/
theorem headerRegisters : Obligations.HeaderRegisters := by
  intro W s hc
  refine ⟨{ s with cur := s.cur + 4, hdrStart := s.cur, hdr := BlockHeader.ofWord W }, ?_, ?_, rfl, rfl⟩
  · simp only [exec, execFmtBlkhdr, State.decodeHeader_eq_ok.2 ⟨hc, rfl⟩, State.orRaise_ok]
  · exact BlockHeader.word_ofWord W

/-- Settles O42: `State.reset` is written with these values. -/
theorem resetValues : Obligations.ResetValues :=
  ⟨rfl, rfl, rfl, rfl, rfl, rfl, rfl, rfl, rfl, rfl, rfl, rfl, rfl⟩

/-- Settles O46, by the STATUS a read is taken in. -/
theorem noReadWhileBusy : Obligations.NoReadWhileBusy := by
  intro s rest
  have hbusy : s.status = .busy → s.hostRead = .error .readWhileBusy := fun hb => by simp [State.hostRead, hb]
  refine ⟨hbusy, fun hb => ?_, fun hh hb => ?_, fun hh hb => ?_, fun hh => ?_⟩
  · cases hs : s.status <;> simp_all [State.hostRead]
  · have hread : State.hostRead { s with host := rest } = .error .readWhileBusy := hbusy hb
    simp [step_move hh, hostMove, hread]
  · exact (step_move hh (by simp)).trans (hostMove_not_busy hb (by simp) (by simp))
  · exact step_move hh (by simp)

/-- Settles O47: the engine stands still outside a parse, and so does every other move of the host. -/
theorem stableUntilStartOrReset : Obligations.StableUntilStartOrReset := by
  intro s hb
  refine ⟨fun hh => ?_, fun m rest hh hr hs => ?_⟩
  · rw [step_silent hh, engineStep_not_busy hb]
  · by_cases hm : m = .nothing
    · subst hm
      exact (step_nothing hh).trans (engineStep_not_busy hb)
    · exact (step_move hh hm).trans (hostMove_not_busy hb hr hs)

/-- Settles O58, value by value: the codes of the two registers are distinct. -/
theorem statusRegisterCodes : Obligations.StatusRegisterCodes := by
  intro s
  refine ⟨?_, ?_⟩
  · cases h : s.status <;> simp [State.sr0, h, Status.code]
  · cases h : s.stopReason <;> simp [State.sr2, h, StopReason.code]

end Sys2Proof
end

section
/-! PROOFS. The invariant of R44 and R45: reset, START and fault entry establish it, each element of the engine keeps it. -/

namespace Sys2Proof.Machine

variable {s t : State}

/-- A Busy machine meets the invariant by its source and the conditions of a running parse. -/
theorem State.inv_of_busy (hb : s.status = .busy) (hs : s.src.wf = true) (hi : s.busyInv) : s.Inv :=
  ⟨hs, by simp [hb], fun _ => hi, by simp [hb], by simp [hb]⟩

/-- A Done machine meets the invariant by its source and the conditions of a successful parse. -/
theorem State.inv_of_done (hd : s.status = .done) (hs : s.src.wf = true) (hi : s.doneInv) : s.Inv :=
  ⟨hs, by simp [hd], by simp [hd], fun _ => hi, by simp [hd]⟩

/-! ### The three ways to clear the machine -/

/-- After reset nothing but the source, which is empty, is left to ask about (R260). -/
theorem State.resetEvent_inv (s : State) : s.resetEvent.Inv :=
  ⟨Memory.empty_wf, fun _ => by
    simp [State.noFault, State.registersClear, State.noResult], by simp, by simp, by simp⟩

/-- START leaves phase Magic, in which every register is clear, and a source in canonical form (R190). -/
theorem State.start_inv (s : State) (bytes : List Byte) : (s.start bytes).Inv :=
  State.inv_of_busy rfl (Memory.ofBytes_wf bytes) (by
    simp [State.busyInv, State.noFault, State.noResult, State.registersClear])

/-- Fault entry keeps the source and clears what it does not record (R226). -/
theorem State.raise_inv (k : FaultKind) (hs : s.src.wf = true) : (s.raise k).Inv :=
  ⟨hs, by simp, by simp, by simp, fun _ => by
    simp [State.failedInv, State.registersClear, State.noResult]⟩

/-! ### The elements of a running parse -/

/-- The signature leaves the cursor at the end of an empty block at offset 0: all registers were clear (R192). -/
theorem State.busyInv_afterMagic (hi : s.busyInv) (hp : s.phase = .magic) (hc : s.cur + 4 ≤ s.src.len) :
    State.busyInv { s with cur := s.cur + 4, phase := .blocks } := by
  obtain ⟨hfault, hresult, -, -, hclear, -⟩ := hi
  obtain ⟨hcur, hstart, hhdr, hstop, -, hblocks⟩ := hclear hp
  refine ⟨hfault, hresult, hc, by simp [hblocks], by simp, fun _ => ⟨hstop, ?_, by simp [noneLast, hblocks]⟩, by simp⟩
  simp [State.blockEnd, hcur, hstart, hhdr, zeroHeader]

@[simp] theorem State.afterBlock_stopReason_none (s : State) (h : BlockHeader) :
    (s.afterBlock h none).stopReason = .unsupported := rfl
@[simp] theorem State.afterBlock_phase_none (s : State) (h : BlockHeader) : (s.afterBlock h none).phase = .frame := rfl
@[simp] theorem State.afterBlock_stopReason_some (s : State) (h : BlockHeader) (p : Payload) :
    (s.afterBlock h (some p)).stopReason = if h.isLast = 1#1 then .lastFlag else s.stopReason := rfl
@[simp] theorem State.afterBlock_phase_some (s : State) (h : BlockHeader) (p : Payload) :
    (s.afterBlock h (some p)).phase = if h.isLast = 1#1 then .frame else s.phase := rfl

/-- A completed block: its payload is the one its type selects, and the loop goes on only while neither an unsupported type
nor a last-flag was seen (R45 (d), R45 (e), R193, R194). -/
theorem State.busyInv_afterBlock {h : BlockHeader} {r : Option Payload} {c : Nat} (hi : s.busyInv)
    (hp : s.phase = .blocks) (he : s.cur + 4 + h.length.toNat ≤ s.src.len)
    (hr : (s.afterHeader h).decodePayload = .ok (r, c)) : (s.afterBlock h r).busyInv := by
  obtain ⟨hfault, hresult, -, hok, -, hloop, -⟩ := hi
  obtain ⟨hstop, -, hlast⟩ := hloop hp
  obtain ⟨hpay, hdec, -⟩ := State.decodePayload_ok hr
  cases r with
  | none =>
    have hend : (s.afterBlock h none).loopEnded := ⟨by simp, fun _ => ⟨hdec, hlast⟩, by simp⟩
    exact ⟨hfault, hresult, he, hok, by simp, by simp, fun _ => ⟨hend, rfl⟩⟩
  | some p =>
    have hnew : ∀ b ∈ s.blocks ++ [⟨h, p⟩], b.ok s.cfg = true := by
      simpa [or_imp, forall_and] using ⟨hok, hpay p rfl⟩
    by_cases hl : h.isLast = 1#1
    · have hend : (s.afterBlock h (some p)).loopEnded := by
        simpa [State.afterBlock, State.loopEnded, hl] using hlast
      exact ⟨hfault, hresult, he, hnew, by simp [hl], by simp [hl], fun _ => ⟨hend, rfl⟩⟩
    · have hnone : noneLast (s.blocks ++ [⟨h, p⟩]) := by
        simpa [noneLast, or_imp, forall_and] using ⟨hlast, (BitVec.eq_zero_or_eq_one h.isLast).resolve_right hl⟩
      exact ⟨hfault, hresult, he, hnew, by simp [hl, hp], fun _ => ⟨by simp [hl, hstop], rfl, hnone⟩, by simp [hl, hp]⟩

/-- An accepted frame header hands over the result: the look-ups of the blocks and the four bytes at the last block's end
(R196, R197). -/
theorem State.doneInv_afterFrame {f : FrameHeaderRaw} (hi : s.busyInv) (hp : s.phase = .frame)
    (hc : s.cur + 4 ≤ s.src.len) (hf : f.valid = true) :
    State.doneInv { s.lookups with cur := s.cur + 4, frame := some f, status := .done } := by
  obtain ⟨hfault, -, -, hok, -, -, hend⟩ := hi
  obtain ⟨hloop, hcur⟩ := hend hp
  exact ⟨hfault, congrArg (· + 4) hcur, hc, hok, hloop, hp, rfl, rfl, rfl, hf⟩

/-! ### Steps -/

/-- A step of the engine keeps the invariant. -/
theorem engineStep_inv (hi : s.Inv) (h : engineStep s = .next t) : t.Inv := by
  by_cases hb : s.status = .busy
  · obtain ⟨hs, -, hbusy, -, -⟩ := hi
    rcases engineStep_cases hb h with ⟨k, rfl⟩ | ⟨hp, hc, rfl⟩ | ⟨hp, h, r, c, he, hr, rfl⟩ | ⟨hp, f, hc, hf, rfl⟩
    · exact State.raise_inv k hs
    · exact State.inv_of_busy hb hs (State.busyInv_afterMagic (hbusy hb) hp hc)
    · exact State.inv_of_busy hb hs (State.busyInv_afterBlock (hbusy hb) hp he hr)
    · exact State.inv_of_done rfl hs (State.doneInv_afterFrame (hbusy hb) hp hc hf)
  · rw [engineStep_not_busy hb, Host.Outcome.next.injEq] at h
    exact h ▸ hi

/-- A move of the host keeps the invariant. -/
theorem hostMove_inv {m : HostMove} (hi : s.Inv) (h : hostMove m s = .next t) : t.Inv := by
  rcases hostMove_cases h with ⟨-, rfl⟩ | ⟨bytes, -, -, rfl⟩ | rfl
  · exact s.resetEvent_inv
  · exact s.start_inv bytes
  · exact hi

end Sys2Proof.Machine

namespace Sys2Proof

open Machine

/-- Settles O52: the machine after reset is what the reset event makes of it. -/
theorem invHoldsAtReset : Obligations.InvHoldsAtReset := State.reset.resetEvent_inv

/-- Settles O53: the invariant does not look at the host's list of moves, and both kinds of step keep it. -/
theorem stepKeepsInv : Obligations.StepKeepsInv := by
  intro s t hi h
  rcases step_cases h with ⟨-, he⟩ | ⟨m, rest, -, hm⟩
  · exact engineStep_inv (s := { s with host := s.host.tail }) hi he
  · exact hostMove_inv (s := { s with host := rest }) hi hm

end Sys2Proof
end

section
/-! PROOFS. A running parse as a whole: each step of the engine takes at least four bytes of the source, so a parse ends
(R45 (c), R199); and each keeps the answer that the function `parse` gives from where the machine stands, so it ends in
that answer (R22, R198). -/

namespace Sys2Proof.Machine

variable {s t : State}

/-- With the host silent a running parse ends within one step for every four bytes left and one more, and what every step
of the engine keeps holds at its end. -/
theorem run_ends {P : State → Prop} (hkeep : ∀ a b : State, a.status = .busy → P a → engineStep a = .next b → P b)
    (n : Nat) (hb : s.status = .busy) (hh : s.host = []) (hP : P s) (hn : s.src.len < s.cur + 4 * (n + 1)) :
    ∃ k t, k ≤ n + 1 ∧ Host.Core.run core k s = .next t ∧ t.ended ∧ P t := by
  induction n generalizing s with
  | zero =>
    have hs := engineStep_eq hb
    rw [if_neg (by omega)] at hs
    exact ⟨1, _, le_rfl, run_succ (M := core) ((step_silent hh).trans hs) 0, .inr rfl, hkeep _ _ hb hP hs⟩
  | succ n ih =>
    have hs := engineStep_eq hb
    have hP' := hkeep _ _ hb hP hs
    have hrun := run_succ (M := core) ((step_silent hh).trans hs)
    rcases engineStep_progress hb hs with hend | ⟨hb', hsrc, hhost, hcur, -⟩
    · exact ⟨1, _, by omega, hrun 0, hend, hP'⟩
    · obtain ⟨k, t, hk, hr, hend, hPt⟩ := ih hb' (hhost.trans hh) hP' (by rw [hsrc]; omega)
      exact ⟨k + 1, t, by omega, (hrun k).trans hr, hend, hPt⟩

/-! ### The answer from where the machine stands -/

@[simp] theorem except_ok_bind {α β : Type} (a : α) (f : α → Except FaultKind β) : (Except.ok a >>= f) = f a := rfl
@[simp] theorem except_error_bind {α β : Type} (k : FaultKind) (f : α → Except FaultKind β) :
    (Except.error k >>= f) = .error k := rfl

/-- The answer an outcome of `parseState` stands for (R198). -/
def resultOf (r : Except FaultKind State) : ParseResult :=
  match r with
  | .ok t => .done t.container t.stopReason t.cur t.hdrStart t.hdr
  | .error k => .failed k.faultClass k

/-- R198 from the look-ups on; the word at the cursor is the same before and after them. -/
def State.parseFrame (s : State) : Except FaultKind State := do
  let W ← s.wordAt
  let (f, t) ← s.lookups.validateFrameHeader (FrameHeaderRaw.ofWord W)
  .ok { t with frame := some f }

/-- R198 from where the machine stands, with a bound on the blocks to come. -/
def State.parseRest (n : Nat) (s : State) : Except FaultKind State :=
  match s.phase with
  | .magic => parseState s
  | .blocks => parseLoop n s >>= State.parseFrame
  | .frame => s.parseFrame

/-- `parse` is R198 from the machine START leaves. -/
theorem parse_eq (cfg : Config) (src : List Byte) :
    parse cfg src = resultOf (parseState ({ State.reset with cfg := cfg }.start src)) := rfl

/-- `parseState` is the signature, the loop, and the rest. -/
theorem parseState_eq (s : State) :
    parseState s = s.wordAt >>= fun W => s.validateMagic W >>= fun t =>
      parseLoop (s.src.len / 4) t >>= State.parseFrame := rfl

/-- One turn of the loop of R198, with the loop test of the block step (R193). -/
theorem parseLoop_succ (n : Nat) (s : State) :
    parseLoop (n + 1) s = s.wordAt >>= fun W => s.decodeBlock (BlockHeader.ofWord W) >>= fun p =>
      if p.2 then .ok { p.1 with stopReason := .unsupported }
      else if p.1.hdr.isLast = 1#1 then .ok { p.1 with stopReason := .lastFlag }
      else parseLoop n p.1 := rfl

/-- The validator does not look at PHASE. -/
theorem State.validateFrameHeader_phase (s : State) (f : FrameHeaderRaw) (p : Phase) :
    State.validateFrameHeader { s with phase := p } f
      = (s.validateFrameHeader f).map fun q => (q.1, { q.2 with phase := p }) := by
  unfold State.validateFrameHeader State.advance
  by_cases hc : s.cur + 4 ≤ s.src.len
  · simp only [hc, if_true, except_ok_bind]
    split_ifs <;> rfl
  · simp only [hc, if_false, except_error_bind]
    rfl

/-- The answer does not show PHASE (R41), which the engine writes at the loop's end and `parse` does not. -/
theorem resultOf_parseFrame_phase (s : State) (p : Phase) :
    resultOf (State.parseFrame { s with phase := p }) = resultOf s.parseFrame := by
  have hw : State.wordAt { s with phase := p } = s.wordAt := rfl
  have hl : State.lookups { s with phase := p } = { s.lookups with phase := p } := rfl
  simp only [State.parseFrame, hw, hl, State.validateFrameHeader_phase]
  cases s.wordAt with
  | error k => rfl
  | ok W =>
    simp only [except_ok_bind]
    cases s.lookups.validateFrameHeader (FrameHeaderRaw.ofWord W) <;> rfl

/-- The loop test picks the branch of the loop of R198: both look at the unsupported outcome first (R193). -/
theorem resultOf_parseRest_loopTest (n : Nat) (u : Bool) (hp : s.phase = .blocks) :
    resultOf ((s.loopTest u).parseRest n)
      = resultOf ((if u then .ok { s with stopReason := .unsupported }
          else if s.hdr.isLast = 1#1 then .ok { s with stopReason := .lastFlag }
          else parseLoop n s) >>= State.parseFrame) := by
  cases u with
  | true => exact resultOf_parseFrame_phase { s with stopReason := .unsupported } .frame
  | false =>
    by_cases hl : s.hdr.isLast = 1#1
    · simpa [State.loopTest, State.parseRest, hl]
        using resultOf_parseFrame_phase { s with stopReason := .lastFlag } .frame
    · simp [State.loopTest, State.parseRest, hl, hp]

/-- With fewer than four bytes left every phase answers Truncated, whatever the bound (R120). -/
theorem State.parseRest_short (n : Nat) (hc : ¬ s.cur + 4 ≤ s.src.len) : s.parseRest n = .error .truncated := by
  have hw := State.wordAt_short hc
  cases hp : s.phase with
  | magic => simp [State.parseRest, hp, parseState_eq, hw]
  | blocks => cases n <;> simp [State.parseRest, hp, parseLoop, hw]
  | frame => simp [State.parseRest, hp, State.parseFrame, hw]

/-! ### Each step keeps the answer -/

/-- The machine holds the answer, or a parse runs that `parse` would end in it, with room for every block to come. -/
def State.Promises (a : ParseResult) (s : State) : Prop :=
  s.answer = some a
  ∨ (s.status = .busy ∧ ∃ n, s.src.len < s.cur + 4 * (n + 1) ∧ resultOf (s.parseRest n) = a)

/-- A machine in which a parse has ended keeps its promise by holding the answer. -/
theorem State.Promises.answer_of_ended {a : ParseResult} (hp : s.Promises a) (he : s.ended) : s.answer = some a := by
  rcases hp with ha | ⟨hb, -⟩
  · exact ha
  · rcases he with hd | hf
    · simp [hb] at hd
    · simp [hb] at hf

theorem State.promises_raise (s : State) (k : FaultKind) : (s.raise k).Promises (resultOf (.error k)) := .inl rfl

/-- The signature (R192). -/
theorem State.promises_magic {W : Word} (n : Nat) (hb : s.status = .busy) (hp : s.phase = .magic)
    (hw : s.wordAt = .ok W) :
    (s.orRaise (s.validateMagic W)).Promises (resultOf (s.parseRest n)) := by
  simp only [State.parseRest, hp, parseState_eq, hw, except_ok_bind]
  cases hv : s.validateMagic W with
  | error k => exact s.promises_raise k
  | ok t =>
    obtain ⟨-, -, rfl⟩ := State.validateMagic_eq_ok.1 hv
    exact .inr ⟨hb, s.src.len / 4, by simp; omega, rfl⟩

/-- A block: the bound on the blocks goes down by one and the bytes left by at least four (R193, R45 (c)). -/
theorem State.promises_blocks {W : Word} {n : Nat} (hb : s.status = .busy) (hp : s.phase = .blocks)
    (hc : s.cur + 4 ≤ s.src.len) (hw : s.wordAt = .ok W) (hn : s.src.len < s.cur + 4 * (n + 1)) :
    (s.blocksStep (BlockHeader.ofWord W)).Promises (resultOf (s.parseRest n)) := by
  obtain ⟨n, rfl⟩ : ∃ m, n = m + 1 := ⟨n - 1, by omega⟩
  simp only [State.parseRest, hp, parseLoop_succ, hw, except_ok_bind, State.blocksStep,
    State.tryBlocksStep]
  cases hd : s.decodeBlock (BlockHeader.ofWord W) with
  | error k =>
    simp only [except_error_bind]
    exact s.promises_raise k
  | ok p =>
    obtain ⟨t, u⟩ := p
    simp only [except_ok_bind, State.orRaise_ok]
    obtain ⟨-, r, c, -, -, ht⟩ := State.decodeBlock_eq_ok.1 hd
    have htp : t.phase = .blocks := by rw [ht]; exact hp
    refine .inr ⟨?_, n, ?_, resultOf_parseRest_loopTest n u htp⟩
    · simpa only [ht, State.loopTest_status] using hb
    · simp only [ht, State.loopTest_src, State.loopTest_cur]
      omega

/-- The frame header (R197). -/
theorem State.promises_frame {W : Word} (n : Nat) (hp : s.phase = .frame) (hw : s.wordAt = .ok W) :
    (s.frameStep (FrameHeaderRaw.ofWord W)).Promises (resultOf (s.parseRest n)) := by
  simp only [State.parseRest, hp, State.parseFrame, hw, except_ok_bind, State.frameStep,
    State.tryFrameStep]
  cases hv : s.lookups.validateFrameHeader (FrameHeaderRaw.ofWord W) with
  | error k =>
    simp only [except_error_bind]
    exact s.promises_raise k
  | ok p =>
    simp only [except_ok_bind]
    exact .inl rfl

/-- A step of the engine keeps the answer. -/
theorem engineStep_promises {a : ParseResult} (hb : s.status = .busy) (ha : s.Promises a)
    (h : engineStep s = .next t) : t.Promises a := by
  obtain ⟨n, hn, rfl⟩ : ∃ n, s.src.len < s.cur + 4 * (n + 1) ∧ resultOf (s.parseRest n) = a := by
    rcases ha with ha | ⟨-, hr⟩
    · simp [State.answer, hb] at ha
    · exact hr
  rw [engineStep_eq hb, Host.Outcome.next.injEq] at h
  subst h
  split_ifs with hc
  · cases hp : s.phase with
    | magic => exact State.promises_magic n hb hp (State.wordAt_inside hc)
    | blocks => exact State.promises_blocks hb hp hc (State.wordAt_inside hc) hn
    | frame => exact State.promises_frame n hp (State.wordAt_inside hc)
  · rw [State.parseRest_short n hc]
    exact s.promises_raise .truncated

end Sys2Proof.Machine

namespace Sys2Proof

open Machine

/-- Settles O54: a parse has at most one step for every four bytes of the source, and one more. -/
theorem parseEnds : Obligations.ParseEnds := by
  intro s hb hh
  obtain ⟨k, t, hk, hr, hend, -⟩ :=
    run_ends (P := fun _ => True) (fun _ _ _ _ _ => trivial) (s.src.len / 4) hb hh trivial (by omega)
  exact ⟨k, t, hk, hr, hend⟩

/-- Settles O55: START leaves a machine that promises the answer of `parse`, every step of the engine keeps the promise, and
the parse ends. -/
theorem stepsComputeParse : Obligations.StepsComputeParse := by
  intro s bytes hb hh
  have hstart : step s = .next (State.start { s with host := [] } bytes) := by
    rw [step_move hh (by simp)]
    cases hs : s.status <;> simp_all [hostMove]
  have hpromise : (State.start { s with host := [] } bytes).Promises (parse s.cfg bytes) :=
    .inr ⟨rfl, bytes.length / 4, by simp; omega, (parse_eq s.cfg bytes).symm⟩
  obtain ⟨k, t, hk, hr, hend, ht⟩ :=
    run_ends (fun _ _ => engineStep_promises) (bytes.length / 4) rfl rfl hpromise (by simp; omega)
  exact ⟨k + 1, t, by omega, (run_succ (M := core) hstart k).trans hr, ht.answer_of_ended hend⟩

end Sys2Proof
end

section
/-! PROOFS. The source: what a read delivers and what START's byte array reads back as (R50, R52, R56), that no instruction
and no engine step writes it (R51), and that a block step whose payload is skipped looks at its length alone (R59). -/

namespace Sys2Proof.Machine

variable {s t : State} {h : BlockHeader}

/-! ### Reading -/

/-- Byte `i` of a run of bytes is the source's byte at the `i`-th address from its start. -/
theorem Memory.bytes_getElem? (m : Memory) {a n i : Nat} (hi : i < n) : (m.bytes a n)[i]? = some (m.byte (a + i)) := by
  induction n generalizing a i with
  | zero => omega
  | succ n ih =>
    cases i with
    | zero => rfl
    | succ i =>
      have hrest := ih (a := a + 1) (Nat.lt_of_succ_lt_succ hi)
      rwa [Nat.add_right_comm, Nat.add_assoc] at hrest

/-- A byte array laid down from an address reads back, the bytes 00 that are not listed included (log 4). -/
theorem cellAt_cellsFrom (a : Nat) (bytes : List Byte) {i : Nat} (hi : i < bytes.length) :
    cellAt (cellsFrom a bytes) (a + i) = bytes[i] := by
  induction bytes generalizing a i with
  | nil => simp at hi
  | cons v rest ih =>
    cases i with
    | zero =>
      by_cases hv : v = 0#8
      · have hbelow := cellAt_below (cellsFrom_wf (a + 1) _ rest le_rfl) (Nat.lt_succ_self a)
        simpa [cellsFrom, hv] using hbelow
      · simp [cellsFrom, hv, cellAt]
    | succ i =>
      have hrest := ih (a + 1) (Nat.lt_of_succ_lt_succ hi)
      rw [Nat.add_right_comm, Nat.add_assoc] at hrest
      by_cases hv : v = 0#8 <;> simpa [cellsFrom, hv, cellAt] using hrest

/-! ### The frame of the source -/

/-- Entering a fault keeps the source, so an operation keeps it if it does so where it does not fault. -/
theorem State.orRaise_src {r : Except FaultKind State} (hr : ∀ u, r = .ok u → u.src = s.src) :
    (s.orRaise r).src = s.src := by
  cases r with
  | ok u => exact hr u rfl
  | error k => rfl

theorem State.orRaise_advance_src (n : Nat) : (s.orRaise (s.advance n)).src = s.src :=
  State.orRaise_src fun _ hu => by rw [(State.advance_eq_ok.1 hu).2]

theorem State.blocksStep_src (s : State) (h : BlockHeader) : (s.blocksStep h).src = s.src :=
  State.orRaise_src fun _ hu => by
    obtain ⟨-, r, c, -, rfl⟩ := State.tryBlocksStep_eq_ok.1 hu
    rw [State.loopTest_src]

theorem State.frameStep_src (s : State) (f : FrameHeaderRaw) : (s.frameStep f).src = s.src :=
  State.orRaise_src fun _ hu => by
    obtain ⟨-, -, rfl⟩ := State.tryFrameStep_eq_ok.1 hu
    rfl

/-- The validator alone, as the row FMT.FRAMEHDR runs it. -/
theorem State.orRaise_validateFrameHeader_src (s : State) (f : FrameHeaderRaw) :
    (s.orRaise ((s.validateFrameHeader f).map Prod.snd)).src = s.src := by
  refine State.orRaise_src fun u hu => ?_
  cases hv : s.validateFrameHeader f with
  | error k => simp [hv, Except.map] at hu
  | ok p =>
    obtain ⟨-, -, -, hp⟩ := State.validateFrameHeader_eq_ok.1 hv
    obtain rfl : p.2 = u := by simpa [hv, Except.map] using hu
    rw [hp]

/-- No instruction writes the source (R51). -/
theorem exec_src {i : Instr} (he : exec i s = .next t) : t.src = s.src := by
  cases hi : i.blockHeader with
  | some h =>
    rw [exec_of_blockHeader hi, Host.Outcome.next.injEq] at he
    rw [← he, State.blocksStep_src]
  | none =>
    cases i with
    | magic sig =>
      cases he
      exact State.orRaise_src fun _ hu => by rw [(State.validateMagic_eq_ok.1 hu).2.2]
    | framehdr | framehdrReserved1 | framehdrReserved2 =>
      cases he
      exact s.frameStep_src _
    | fmtBlkhdr h =>
      cases he
      exact State.orRaise_src fun _ hu => by rw [(State.decodeHeader_eq_ok.1 hu).2]
    | payStreaminfo | paySeekpoint | payU32le =>
      cases he
      exact State.orRaise_advance_src _
    | fmtFramehdr c =>
      cases he
      exact s.orRaise_validateFrameHeader_src _
    | _ => simp [Instr.blockHeader] at hi

/-- No engine step writes the source: it executes the fetched element, enters Truncated, or stands still (R51, R191). -/
theorem engineStep_src (he : engineStep s = .next t) : t.src = s.src := by
  by_cases hb : s.status = .busy
  · rw [engineStep_busy hb] at he
    cases hf : s.fetch with
    | ok i => exact exec_src (by simpa [hf] using he)
    | error k =>
      obtain rfl : s.raise k = t := by simpa [hf] using he
      exact s.raise_src k
  · rw [engineStep_not_busy hb, Host.Outcome.next.injEq] at he
    rw [he]

/-! ### Skipped payloads -/

/-- A payload that is neither StreamInfo nor SeekTable nor VorbisComment is not read: the dispatch answers from the source's
length alone (R145, R175). -/
theorem State.decodePayload_other_source {m : Memory} (hm : m.len = s.src.len) (h0 : s.hdr.blockType ≠ 0#7)
    (h3 : s.hdr.blockType ≠ 3#7) (h4 : s.hdr.blockType ≠ 4#7) :
    State.decodePayload { s with src := m } = s.decodePayload := by
  obtain ⟨hsi, -, hst, hvc⟩ := typeTag_eq (code := s.hdr.blockType)
  unfold State.decodePayload
  cases ht : typeTag s.hdr.blockType with
  | streamInfo => exact absurd (hsi.1 ht) h0
  | seekTable => exact absurd (hst.1 ht) h3
  | vorbisComment => exact absurd (hvc.1 ht) h4
  | padding => simp [decodePadding, Memory.seek, State.blockEnd, hm]
  | application | cueSheet | picture | reserved | invalid => rfl

/-- With another source of the same length such a block completes in the same way. -/
theorem State.tryBlocksStep_ok_other_source {m : Memory} (hm : m.len = s.src.len) (h0 : h.blockType ≠ 0#7)
    (h3 : h.blockType ≠ 3#7) (h4 : h.blockType ≠ 4#7) (ht : s.tryBlocksStep h = .ok t) :
    State.tryBlocksStep { s with src := m } h = .ok { t with src := m } := by
  obtain ⟨he, r, c, hr, rfl⟩ := State.tryBlocksStep_eq_ok.1 ht
  have hr' := (State.decodePayload_other_source (s := s.afterHeader h) hm h0 h3 h4).trans hr
  rw [State.loopTest_after]
  exact State.tryBlocksStep_eq_ok.2 ⟨hm ▸ he, r, c, hr', (State.loopTest_after { s with src := m } h r).symm⟩

/-- The block step of such a block, fault included, looks at the source's length alone: the one fault it can enter is
Truncated, and it enters it with both sources or with neither (R59). -/
theorem State.blocksStep_other_source {m : Memory} (hm : m.len = s.src.len) (h0 : h.blockType ≠ 0#7)
    (h3 : h.blockType ≠ 3#7) (h4 : h.blockType ≠ 4#7) :
    State.blocksStep { s with src := m } h = { s.blocksStep h with src := m } := by
  have only_truncated {k : FaultKind} {u : State} (hk : u.tryBlocksStep h = .error k) : k = .truncated := by
    simpa [h3, h4] using State.tryBlocksStep_error hk
  rcases s.blocksStep_cases h with hok | ⟨k, hk, hs⟩
  · exact congrArg (State.orRaise { s with src := m }) (State.tryBlocksStep_ok_other_source hm h0 h3 h4 hok)
  · rcases State.blocksStep_cases { s with src := m } h with hok' | ⟨k', hk', hs'⟩
    · have hok := State.tryBlocksStep_ok_other_source (s := { s with src := m }) hm.symm h0 h3 h4 hok'
      exact absurd (hk.symm.trans hok) (by simp)
    · rw [hs, hs', only_truncated hk, only_truncated hk']
      rfl

end Sys2Proof.Machine

namespace Sys2Proof

open Machine

/-- Settles O12: inside the source a read answers the run of `n` bytes, outside it answers Truncated. -/
theorem readIsAllOrNothing : Obligations.ReadIsAllOrNothing := by
  intro m addr n
  refine ⟨fun hin => ?_, fun hout => ?_⟩
  · exact ⟨m.bytes addr n, Memory.read_eq_ok.2 ⟨hin, rfl⟩, m.bytes_length addr n, fun i hi => m.bytes_getElem? hi⟩
  · exact Memory.read_eq_error.2 ⟨hout, rfl⟩

/-- Settles O13: START lays the bytes down from address 0. -/
theorem sourceHoldsTheBytesGiven : Obligations.SourceHoldsTheBytesGiven := by
  intro bytes
  refine ⟨rfl, fun i hi => ?_⟩
  have hread := cellAt_cellsFrom 0 bytes hi
  rwa [Nat.zero_add] at hread

/-- Settles O14: the source is left as a whole, so each of its bytes is. -/
theorem engineNeverWritesTheSource : Obligations.EngineNeverWritesTheSource := by
  refine ⟨fun i s t he => ?_, fun s t he => ?_⟩
  · have hsrc := exec_src he
    exact ⟨hsrc, fun a => by rw [hsrc]⟩
  · have hsrc := engineStep_src he
    exact ⟨hsrc, fun a => by rw [hsrc]⟩

/-- Settles O38: the instruction is the block step of its header, which sees the source's length alone. -/
theorem skippedPayloadsAreNotRead : Obligations.SkippedPayloadsAreNotRead := by
  intro i h s t m hi h0 h3 h4 hm he
  rw [exec_of_blockHeader hi, Host.Outcome.next.injEq] at he
  rw [exec_of_blockHeader hi, State.blocksStep_other_source hm h0 h3 h4, he]

/-- Settles O8: four bytes sum to less than `2 ^ 32`, so the field drops nothing of `le`. -/
theorem littleEndianField : Obligations.LittleEndianField := by
  intro b0 b1 b2 b3
  have h0 := b0.isLt
  have h1 := b1.isLt
  have h2 := b2.isLt
  have h3 := b3.isLt
  simp only [u32le, le, BitVec.toNat_ofNat]
  omega

end Sys2Proof
end

section
/-! PROOFS. Encodings, read both ways: an encoded instruction decodes to itself (R82 to R85, R89, R92), a word matches the
table row it is decoded by and no other (R93), and each record's fields stand at their bytes and bits (R83 to R85, R89). -/

namespace Sys2Proof

/-! ### Decoding what was encoded -/

/-- The row a block header selects is the one whose header it is: a row of one code by that code, and a row of several codes
for each value of the bits it leaves free (R86). -/
theorem decodeBlkhdr_of_blockHeader {i : Instr} {h : BlockHeader} (hi : i.blockHeader = some h) : decodeBlkhdr h = i := by
  cases i with
  | blkReserved8_15 l low n | blkReserved16_31 l low n | blkReserved32_63 l low n | blkReserved64_95 l low n
  | blkReserved96_111 l low n | blkReserved112_119 l low n | blkReserved120_123 l low n | blkReserved124_125 l low n =>
    cases hi
    obtain ⟨k, hk, rfl⟩ : ∃ k < 2 ^ _, low = BitVec.ofNat _ k := ⟨low.toNat, low.isLt, by simp⟩
    interval_cases k <;> simp [decodeBlkhdr]
  | _ => cases hi <;> simp [decodeBlkhdr]

/-- A well-formed row of phase Frame is the one its frame header selects (R93, log 8). -/
theorem decodeFramehdr_of_frameHeader {i : Instr} {f : FrameHeaderRaw} (hi : i.frameHeader = some f)
    (hc : i.context = .element .frame) (hw : i.wf = true) : decodeFramehdr f = i := by
  cases i with
  | framehdr g =>
    cases hi
    simp only [Instr.wf, FrameHeaderRaw.reservedClear, Bool.or_eq_true, Bool.and_eq_true, bne_iff_ne, beq_iff_eq] at hw
    rcases hw with hsync | ⟨h1, h2⟩
    · simp [decodeFramehdr, hsync]
    · simp [decodeFramehdr, h1, h2]
  | framehdrReserved1 c reserved2 => cases hi; rfl
  | framehdrReserved2 reserved1 c =>
    cases hi
    obtain rfl := eq_of_beq hw
    rfl
  | fmtFramehdr c => cases hc
  | _ => cases hi

/-- An encoding is as long as its row's format (R58). -/
theorem encode_length (i : Instr) : (encode i).length = i.context.size := by
  cases i with
  | payU32le v => exact leBytes_length 4 _
  | _ => exact beBytes_length _ _

/-- The bytes of a well-formed instruction, taken alone, are read back as that instruction: every record is its word's own
reading, and a row of phase Blocks or Frame is the one its header selects. -/
theorem decodeExact_encode {i : Instr} (hw : i.wf = true) : decodeExact i.context (encode i) = .ok i := by
  have word32 (W : Word) : groupWord 32 (beBytes 4 W.toNat) = W := groupWord_beBytes (n := 4) W
  cases hb : i.blockHeader with
  | some h =>
    obtain ⟨-, hc, he⟩ := Instr.wf_context_encode_of_blockHeader hb
    rw [hc, he, decodeExact, word32, decodeWord, BlockHeader.ofWord_word, decodeBlkhdr_of_blockHeader hb]
  | none =>
    cases i with
    | magic sig => rw [encode, Instr.context, decodeExact, word32, decodeWord]
    | framehdr | framehdrReserved1 | framehdrReserved2 =>
      rw [encode_of_frameHeader rfl, Instr.context, decodeExact, word32, decodeWord, FrameHeaderRaw.ofWord_word,
        decodeFramehdr_of_frameHeader rfl rfl hw]
    | fmtBlkhdr h => rw [encode, Instr.context, decodeExact, word32, BlockHeader.ofWord_word]
    | payStreaminfo si =>
      have hword : groupWord 272 (beBytes 34 si.word.toNat) = si.word := groupWord_beBytes (n := 34) si.word
      rw [encode, Instr.context, decodeExact, hword, StreamInfo.ofWord_word]
    | paySeekpoint p =>
      have hword : groupWord 144 (beBytes 18 p.word.toNat) = p.word := groupWord_beBytes (n := 18) p.word
      rw [encode, Instr.context, decodeExact, hword, SeekPoint.ofWord_word]
    | payU32le v => rw [encode, Instr.context, decodeExact, BitVec.eq_of_toNat_eq (u32le_leBytes _ v.isLt)]
    | fmtFramehdr c =>
      rw [encode_of_frameHeader rfl, Instr.context, decodeExact, word32, FrameHeaderRaw.ofWord_word]
      rfl
    | _ => cases hb

/-- Decoding takes the context's own number of bytes off the front and leaves what follows. -/
theorem decode_append {ctx : Context} {bytes : List Byte} {i : Instr} (rest : List Byte)
    (hl : bytes.length = ctx.size) (hx : decodeExact ctx bytes = .ok i) : decode ctx (bytes ++ rest) = .ok (i, rest) := by
  have henough : ¬ (bytes ++ rest).length < ctx.size := by simp [hl]
  simp only [decode, if_neg henough, List.take_left' hl, List.drop_left' hl, hx]

/-- Settles O1: the encoding has the context's length and is read back alone, so it is read back whatever follows it. -/
theorem decodeEncodeRoundTrip : Obligations.DecodeEncodeRoundTrip :=
  fun i rest hw => decode_append rest (encode_length i) (decodeExact_encode hw)

/-! ### Masks and matches, field by field -/

/-- A word is its block header: two words are equal when their three fields are. -/
theorem BlockHeader.ofWord_inj {V W : Word} : BlockHeader.ofWord V = BlockHeader.ofWord W ↔ V = W :=
  (Function.LeftInverse.injective BlockHeader.word_ofWord).eq_iff

/-- A word is its frame header: two words are equal when their eight fields are. -/
theorem FrameHeaderRaw.ofWord_inj {V W : Word} : FrameHeaderRaw.ofWord V = FrameHeaderRaw.ofWord W ↔ V = W :=
  (Function.LeftInverse.injective FrameHeaderRaw.word_ofWord).eq_iff

/-- A row that fixes bits of the type code alone is matched through the type code (R86, R93). -/
theorem BlockHeader.and_eq_iff {W mask value : Word}
    (hm : BlockHeader.ofWord mask = ⟨0#1, mask.extractLsb' 24 7, 0#24⟩)
    (hv : BlockHeader.ofWord value = ⟨0#1, value.extractLsb' 24 7, 0#24⟩) :
    W &&& mask = value ↔ (BlockHeader.ofWord W).blockType &&& mask.extractLsb' 24 7 = value.extractLsb' 24 7 := by
  rw [← BlockHeader.ofWord_inj, hv]
  simp only [BlockHeader.ext_iff, BlockHeader.ofWord_isLast, BlockHeader.ofWord_length] at hm
  simp [BlockHeader.ext_iff, BitVec.extractLsb'_and, hm]

/-- A row that fixes the sync, and of the other fields at most reserved bits, is matched through these (R89, R93). -/
theorem FrameHeaderRaw.and_eq_iff {W mask value : Word}
    (hm : FrameHeaderRaw.ofWord mask
      = ⟨BitVec.allOnes 14, mask.extractLsb' 17 1, 0#1, 0#4, 0#4, 0#4, 0#3, mask.extractLsb' 0 1⟩)
    (hv : FrameHeaderRaw.ofWord value
      = ⟨syncPattern, value.extractLsb' 17 1, 0#1, 0#4, 0#4, 0#4, 0#3, value.extractLsb' 0 1⟩) :
    W &&& mask = value ↔ (FrameHeaderRaw.ofWord W).sync = syncPattern
      ∧ (FrameHeaderRaw.ofWord W).reserved1 &&& mask.extractLsb' 17 1 = value.extractLsb' 17 1
      ∧ (FrameHeaderRaw.ofWord W).reserved2 &&& mask.extractLsb' 0 1 = value.extractLsb' 0 1 := by
  rw [← FrameHeaderRaw.ofWord_inj, hv]
  simp only [FrameHeaderRaw.ext_iff, FrameHeaderRaw.ofWord_sync, FrameHeaderRaw.ofWord_blockingStrategy,
    FrameHeaderRaw.ofWord_blockSizeCode, FrameHeaderRaw.ofWord_sampleRateCode, FrameHeaderRaw.ofWord_channelCfgCode,
    FrameHeaderRaw.ofWord_sampleSizeCode] at hm
  simp [FrameHeaderRaw.ext_iff, BitVec.extractLsb'_and, hm, -BitVec.reduceAllOnes]

/-! ### The table's rows -/

/-- Mask and match of the 18 rows of phase Blocks (R93, spec/opcode_table.json). -/
def blkRows : List (Word × Word) :=
  [(0x7F000000#32, 0x00000000#32), (0x7F000000#32, 0x01000000#32), (0x7F000000#32, 0x02000000#32),
    (0x7F000000#32, 0x03000000#32), (0x7F000000#32, 0x04000000#32), (0x7F000000#32, 0x05000000#32),
    (0x7F000000#32, 0x06000000#32), (0x7F000000#32, 0x07000000#32), (0x78000000#32, 0x08000000#32),
    (0x70000000#32, 0x10000000#32), (0x60000000#32, 0x20000000#32), (0x60000000#32, 0x40000000#32),
    (0x70000000#32, 0x60000000#32), (0x78000000#32, 0x70000000#32), (0x7C000000#32, 0x78000000#32),
    (0x7E000000#32, 0x7C000000#32), (0x7F000000#32, 0x7E000000#32), (0x7F000000#32, 0x7F000000#32)]

/-- Every instruction of phase Blocks has one of these rows. -/
theorem Instr.exists_blkRow {i : Instr} (hc : i.context = .element .blocks) : ∃ r ∈ blkRows, i.row = some r := by
  cases i <;> cases hc <;> exact ⟨_, by decide, rfl⟩

/-- Any two of these rows ask for different values somewhere in the bits that both fix. -/
theorem blkRows_apart : blkRows.Pairwise fun r r' => r.2 &&& r'.1 ≠ r'.2 &&& r.1 := by decide

/-- So no word matches two of them. -/
theorem blkRow_unique {W : Word} {r r' : Word × Word} (hr : r ∈ blkRows) (hr' : r' ∈ blkRows) (h : W &&& r.1 = r.2)
    (h' : W &&& r'.1 = r'.2) : r = r' := by
  have symm : Std.Symm fun r r' : Word × Word => r.2 &&& r'.1 ≠ r'.2 &&& r.1 := ⟨fun _ _ h => h.symm⟩
  by_contra hne
  refine blkRows_apart.forall hr hr' hne ?_
  rw [← h, ← h', BitVec.and_assoc, BitVec.and_assoc, BitVec.and_comm r.1]

/-- A word whose header is a BLK row's own matches the row, whatever the bits the row leaves free. -/
theorem Instr.word_matches_row {i : Instr} {h : BlockHeader} {W mask value : Word} (hi : i.blockHeader = some h)
    (hW : BlockHeader.ofWord W = h) (hr : i.row = some (mask, value)) : W &&& mask = value := by
  cases i <;> cases hi <;> cases hr <;>
    · rw [BlockHeader.and_eq_iff rfl rfl, hW]
      clear hW
      dsimp only
      decide +revert

/-- In phase Frame a word with a good sync matches the row it is decoded by (R93). -/
theorem decodeFramehdr_matches_row {W : Word} (hsync : (FrameHeaderRaw.ofWord W).sync = syncPattern) :
    ∃ mask value, (decodeFramehdr (FrameHeaderRaw.ofWord W)).row = some (mask, value) ∧ W &&& mask = value := by
  unfold decodeFramehdr
  rw [if_pos hsync]
  split_ifs with h1 h2
  · exact ⟨_, _, rfl, (FrameHeaderRaw.and_eq_iff rfl rfl).2 ⟨hsync, by rw [h1]; decide, BitVec.and_zero⟩⟩
  · exact ⟨_, _, rfl, (FrameHeaderRaw.and_eq_iff rfl rfl).2 ⟨hsync, BitVec.and_zero, by rw [h2]; decide⟩⟩
  · have hr1 := (BitVec.eq_zero_or_eq_one _).resolve_right h1
    have hr2 := (BitVec.eq_zero_or_eq_one _).resolve_right h2
    exact ⟨_, _, rfl, (FrameHeaderRaw.and_eq_iff rfl rfl).2 ⟨hsync, by rw [hr1]; decide, by rw [hr2]; decide⟩⟩

/-- Settles O3: the decoded row carries the word's header, so the word matches it, and no word matches two rows; a good sync
leaves the three rows of phase Frame to the reserved bits. -/
theorem tableRowIsTheDecodedRow : Obligations.TableRowIsTheDecodedRow := by
  refine ⟨fun W => ?_, fun W hsync => decodeFramehdr_matches_row hsync⟩
  have hh := decodeBlkhdr_blockHeader (BlockHeader.ofWord W)
  obtain ⟨-, hc, -⟩ := Instr.wf_context_encode_of_blockHeader hh
  obtain ⟨⟨mask, value⟩, hmem, hrow⟩ := Instr.exists_blkRow hc
  have hmatch := Instr.word_matches_row hh rfl hrow
  refine ⟨mask, value, hrow, hmatch, fun i mask' value' hc' hrow' hmatch' => ?_⟩
  obtain ⟨r, hmem', hr⟩ := Instr.exists_blkRow hc'
  obtain rfl := Option.some.inj (hrow'.symm.trans hr)
  exact blkRow_unique hmem' hmem hmatch' hmatch

/-! ### Fields at their bytes and bits -/

/-- A frame header is legal when its sync is good and both reserved bits are 0 (R40, R89). -/
theorem FrameHeaderRaw.valid_iff {f : FrameHeaderRaw} :
    f.valid = true ↔ f.sync = syncPattern ∧ f.reserved1 = 0#1 ∧ f.reserved2 = 0#1 := by
  simp [FrameHeaderRaw.valid, FrameHeaderRaw.reservedClear]

/-- The legal words are those that match row FRAMEHDR (R214 (b)). -/
theorem FrameHeaderRaw.valid_ofWord_iff (W : Word) :
    (FrameHeaderRaw.ofWord W).valid = true ↔ W &&& 0xFFFE0001#32 = 0xFFF80000#32 := by
  rw [FrameHeaderRaw.valid_iff, FrameHeaderRaw.and_eq_iff rfl rfl]
  have hmask (x : BitVec 1) : x &&& 1#1 = x := BitVec.and_allOnes
  simp [hmask]

/-- A group's integer drops nothing of `be` when it has the bytes' own number of bits (R55). -/
theorem groupWord_toNat {bits : Nat} {bytes : List Byte} (hl : 8 * bytes.length = bits) :
    (groupWord bits bytes).toNat = be bytes := by
  have hlt := be_lt bytes
  rw [show (256 : Nat) = 2 ^ 8 from rfl, ← pow_mul, hl] at hlt
  rw [groupWord, BitVec.toNat_ofNat, Nat.mod_eq_of_lt hlt]

/-- The bytes in front weigh above the bytes that follow (R10). -/
theorem be_append (a b : List Byte) : be (a ++ b) = be a * 256 ^ b.length + be b := by
  induction a with
  | nil => simp [be]
  | cons x rest ih =>
    rw [List.cons_append, be, be, ih, List.length_append, pow_add]
    ring

/-- Settles O7: the three strings weigh `2 ^ 80`, `2 ^ 16` and 1 in the group's integer, and each is below the weight it
is given room for. -/
theorem seekPointBytes : Obligations.SeekPointBytes := by
  intro a b c ha hb hc p
  have hW : (groupWord 144 (a ++ b ++ c)).toNat = (be a * 2 ^ 64 + be b) * 2 ^ 16 + be c := by
    rw [groupWord_toNat (by simp [ha, hb, hc]), be_append, be_append, hb, hc]
    rfl
  have hla : be a < 2 ^ 64 := (be_lt a).trans_eq (by rw [ha]; rfl)
  have hlb : be b < 2 ^ 64 := (be_lt b).trans_eq (by rw [hb]; rfl)
  have hlc : be c < 2 ^ 16 := (be_lt c).trans_eq (by rw [hc]; rfl)
  simp only [p, SeekPoint.ofWord_sampleNumber, SeekPoint.ofWord_streamOffset, SeekPoint.ofWord_frameSamples,
    slice_toNat, hW]
  omega

/-- Settles O9: each field is its bit slice, and above the topmost there is nothing to cut off. -/
theorem frameHeaderBitPositions : Obligations.FrameHeaderBitPositions := by
  intro W f
  have htop : W.toNat / 2 ^ 18 < 2 ^ 14 := Nat.div_lt_of_lt_mul W.isLt
  refine ⟨?_, slice_toNat W 17 1, slice_toNat W 16 1, slice_toNat W 12 4, slice_toNat W 8 4, slice_toNat W 4 4,
    slice_toNat W 1 3, ?_, FrameHeaderRaw.valid_ofWord_iff W⟩
  · exact (slice_toNat W 18 14).trans (Nat.mod_eq_of_lt htop)
  · exact (slice_toNat W 0 1).trans (by rw [pow_zero, Nat.div_one, pow_one])

/-- Settles O6: each field is its bit slice, and 34 bytes leave nothing above the topmost to cut off. -/
theorem streamInfoBitPositions : Obligations.StreamInfoBitPositions := by
  intro bytes hl W si
  have hW : (groupWord 272 bytes).toNat = W := groupWord_toNat (by rw [hl])
  have htop : W / 2 ^ 256 < 2 ^ 16 := by
    rw [← hW, ← Nat.shiftRight_eq_div_pow, ← BitVec.toNat_ushiftRight]
    exact BitVec.toNat_ushiftRight_lt (groupWord 272 bytes) 256 (by decide)
  have field (lo width : Nat) : ((groupWord 272 bytes).extractLsb' lo width).toNat = W / 2 ^ lo % 2 ^ width := by
    rw [slice_toNat, hW]
  refine ⟨?_, field 240 16, field 216 24, field 192 24, field 172 20, field 169 3, field 164 5, field 128 36, ?_⟩
  · exact (field 256 16).trans (Nat.mod_eq_of_lt htop)
  · exact (field 0 128).trans (by rw [pow_zero, Nat.div_one])

/-- Settles O5: the four bytes weigh `2 ^ 24`, `2 ^ 16`, `2 ^ 8` and 1 in the group's integer. -/
theorem blockHeaderBytes : Obligations.BlockHeaderBytes := by
  intro b0 b1 b2 b3 h
  have hW : (groupWord 32 [b0, b1, b2, b3]).toNat
      = b0.toNat * 2 ^ 24 + b1.toNat * 2 ^ 16 + b2.toNat * 2 ^ 8 + b3.toNat := by
    rw [groupWord_toNat (by rfl)]
    simp [be, Nat.add_assoc]
  have h0 := b0.isLt
  have h1 := b1.isLt
  have h2 := b2.isLt
  have h3 := b3.isLt
  simp only [h, BlockHeader.ofWord_isLast, BlockHeader.ofWord_blockType, BlockHeader.ofWord_length, slice_toNat, hW]
  omega

/-- Settles O4: the decoder run on each word. -/
theorem specWordsDecode : Obligations.SpecWordsDecode := by
  unfold Obligations.SpecWordsDecode
  decide

end Sys2Proof
end

section
/-! PROOFS. The codec's strings and cuts: the scanner of UTF8_VALID accepts exactly the concatenations of table rows (R126),
and what the source ends too early for faults, be it a field group, a block, or the next element (R120, R146, R191). -/

namespace Sys2Proof.Machine

variable {s : State}

/-! ### The scanner of UTF8_VALID (R126) -/

/-- The bytes lie in the ranges, one by one. -/
abbrev MatchesRanges (ranges : List ByteRange) (q : List Byte) : Prop :=
  List.Forall₂ (fun r b => inRange r b = true) ranges q

/-- The bytes match a row of the table. -/
abbrev IsUtf8Sequence (q : List Byte) : Prop := ∃ row ∈ utf8Rows, MatchesRanges row q

/-- The ranges found for a first byte are the rest of a row that begins with it. -/
theorem utf8Tail_mem {b : Byte} {rows : List (List ByteRange)} {tail : List ByteRange} (h : utf8Tail b rows = some tail) :
    ∃ first, first :: tail ∈ rows ∧ inRange first b = true := by
  induction rows with
  | nil => simp [utf8Tail] at h
  | cons row rows ih =>
    have later (hr : utf8Tail b rows = some tail) : ∃ first, first :: tail ∈ row :: rows ∧ inRange first b = true := by
      obtain ⟨first, hm, hb⟩ := ih hr
      exact ⟨first, List.mem_cons_of_mem _ hm, hb⟩
    cases row with
    | nil => exact later h
    | cons first more =>
      by_cases hb : inRange first b = true
      · obtain rfl : more = tail := by simpa [utf8Tail, hb] using h
        exact ⟨first, List.mem_cons_self, hb⟩
      · exact later (by simpa [utf8Tail, hb] using h)

/-- Where the rows stand in the order of their first bytes, a first byte finds the one row that begins with it. -/
theorem utf8Tail_of_mem {b : Byte} {rows : List (List ByteRange)} {first : ByteRange} {tail : List ByteRange}
    (hp : rows.Pairwise fun row row' => ∀ r ∈ row.head?, ∀ r' ∈ row'.head?, r.2 < r'.1)
    (hm : first :: tail ∈ rows) (hb : inRange first b = true) : utf8Tail b rows = some tail := by
  induction rows with
  | nil => simp at hm
  | cons row rows ih =>
    obtain ⟨hrow, hrows⟩ := List.pairwise_cons.1 hp
    rcases List.mem_cons.1 hm with rfl | hlater
    · simp [utf8Tail, hb]
    · cases row with
      | nil => exact ih hrows hlater
      | cons r more =>
        have hlt : r.2 < first.1 := hrow _ hlater r rfl first rfl
        have hr : ¬ inRange r b = true := by
          simp only [inRange, Bool.and_eq_true, decide_eq_true_eq] at hb ⊢
          bv_omega
        simpa [utf8Tail, hr] using ih hrows hlater

/-- The table's rows stand in the order of their first bytes. -/
theorem utf8Rows_ordered :
    utf8Rows.Pairwise fun row row' => ∀ r ∈ row.head?, ∀ r' ∈ row'.head?, r.2 < r'.1 := by
  simp [utf8Rows]

/-- The scanner passes over bytes in the ranges it still needs. -/
theorem utf8Scan_append {pending : List ByteRange} {q : List Byte} (rest : List Byte) (hq : MatchesRanges pending q) :
    utf8Scan pending (q ++ rest) = utf8Scan [] rest := by
  induction hq with
  | nil => rfl
  | cons hb _ ih => simp [utf8Scan, hb, ih]

/-- The scanner passes over a sequence of the table. -/
theorem utf8Scan_sequence_append {q : List Byte} (rest : List Byte) (hq : IsUtf8Sequence q) :
    utf8Scan [] (q ++ rest) = utf8Scan [] rest := by
  obtain ⟨row, hrow, hmatch⟩ := hq
  cases hmatch with
  | nil => exact absurd hrow (by decide)
  | cons hb htail =>
    have hfound := utf8Tail_of_mem utf8Rows_ordered hrow hb
    simp [utf8Scan, hfound, utf8Scan_append rest htail]

/-- A string the scanner accepts ends the sequence under way and goes on with whole sequences. -/
theorem utf8Scan_splits {pending : List ByteRange} {bytes : List Byte} (h : utf8Scan pending bytes = true) :
    ∃ q seqs, bytes = q ++ List.flatten seqs ∧ MatchesRanges pending q ∧ ∀ q' ∈ seqs, IsUtf8Sequence q' := by
  induction bytes generalizing pending with
  | nil =>
    obtain rfl : pending = [] := by simpa [utf8Scan] using h
    exact ⟨[], [], rfl, .nil, by simp⟩
  | cons b rest ih =>
    cases pending with
    | cons r more =>
      obtain ⟨hb, hrest⟩ : inRange r b = true ∧ utf8Scan more rest = true := by simpa [utf8Scan] using h
      obtain ⟨q, seqs, rfl, hq, hseqs⟩ := ih hrest
      exact ⟨b :: q, seqs, rfl, .cons hb hq, hseqs⟩
    | nil =>
      cases ht : utf8Tail b utf8Rows with
      | none => simp [utf8Scan, ht] at h
      | some tail =>
        obtain ⟨first, hrow, hb⟩ := utf8Tail_mem ht
        obtain ⟨q, seqs, rfl, hq, hseqs⟩ := ih (by simpa [utf8Scan, ht] using h)
        exact ⟨[], (b :: q) :: seqs, rfl, .nil, List.forall_mem_cons.2 ⟨⟨_, hrow, .cons hb hq⟩, hseqs⟩⟩

/-- The scanner accepts every concatenation of sequences of the table. -/
theorem utf8WellFormed_flatten {seqs : List (List Byte)} (h : ∀ q ∈ seqs, IsUtf8Sequence q) :
    utf8WellFormed seqs.flatten = true := by
  induction seqs with
  | nil => rfl
  | cons q seqs ih =>
    obtain ⟨hq, hseqs⟩ := List.forall_mem_cons.1 h
    exact (utf8Scan_sequence_append _ hq).trans (ih hseqs)

/-! ### Cut short by the end of the source (R120) -/

/-- The validator on fewer than four bytes (R210, R214 (a)). -/
theorem State.validateFrameHeader_short (f : FrameHeaderRaw) (hc : s.src.len < s.cur + 4) :
    s.validateFrameHeader f = .error .truncated := by
  simp [State.validateFrameHeader, State.advance_eq_error.2 ⟨hc, rfl⟩]

/-- Truncated is a fault of every instruction (R222). -/
theorem Instr.truncated_mem_canRaise (i : Instr) : FaultKind.truncated ∈ Instr.canRaise i := by
  cases i <;> simp [Instr.canRaise]

/-- A fault of the block step is one of the row's own: SeekTable's length test and VorbisComment's strings have a type code,
and so a row, to themselves (R176 (d), R222). -/
theorem Instr.mem_canRaise_of_tryBlocksStep {i : Instr} {h : BlockHeader} {k : FaultKind} (hi : i.blockHeader = some h)
    (hk : s.tryBlocksStep h = .error k) : k ∈ Instr.canRaise i := by
  rw [← decodeBlkhdr_of_blockHeader hi]
  rcases State.tryBlocksStep_error hk with rfl | ⟨ht, rfl⟩ | ⟨ht, rfl⟩
  · exact Instr.truncated_mem_canRaise _
  · simp [decodeBlkhdr, ht, Instr.canRaise]
  · simp [decodeBlkhdr, ht, Instr.canRaise]

/-- A block that ends past the source does not complete: the resynchronisation has nowhere to go (R146, R148 (a)). -/
theorem State.blocksStep_overlong {h : BlockHeader} (he : s.src.len < s.cur + 4 + h.length.toNat) :
    ∃ k, s.tryBlocksStep h = .error k ∧ s.blocksStep h = s.raise k := by
  refine (s.blocksStep_cases h).resolve_left fun hok => ?_
  exact absurd (State.tryBlocksStep_eq_ok.1 hok).1 (not_le.2 he)

end Sys2Proof.Machine

namespace Sys2Proof

open Machine

/-- Settles O10: the scanner splits what it accepts into sequences of the table, and passes over such sequences one by
one. -/
theorem utf8AcceptsExactlyTheTable : Obligations.Utf8AcceptsExactlyTheTable := by
  refine fun bytes => ⟨fun h => ?_, ?_⟩
  · obtain ⟨q, seqs, hsplit, hq, hseqs⟩ := utf8Scan_splits (pending := []) h
    obtain rfl : q = [] := List.forall₂_nil_left_iff.1 hq
    exact ⟨seqs, hsplit, hseqs⟩
  · rintro ⟨seqs, rfl, hseqs⟩
    exact utf8WellFormed_flatten hseqs

/-- Settles O26: the block's step does not complete, and the fault it enters is one of its row's. -/
theorem overlongBlockFaults : Obligations.OverlongBlockFaults := by
  intro i h s hi he
  obtain ⟨k, hk, hraise⟩ := State.blocksStep_overlong he
  exact ⟨k, Instr.mem_canRaise_of_tryBlocksStep hi hk, by rw [exec_of_blockHeader hi, hraise]⟩

/-- Settles O31: each group's own read answers Truncated. -/
theorem fieldGroupsTruncated : Obligations.FieldGroupsTruncated := by
  intro s
  have hadvance {n : Nat} (hc : s.src.len < s.cur + n) : s.advance n = .error .truncated :=
    State.advance_eq_error.2 ⟨hc, rfl⟩
  refine ⟨fun h hc => ?_, fun si hc => ?_, fun p hc => ?_, fun v hc => ?_, fun c hc => ?_⟩
  · simp only [exec, execFmtBlkhdr, State.decodeHeader_eq_error.2 ⟨hc, rfl⟩, State.orRaise_error]
  · simp only [exec, execPayStreaminfo, hadvance hc, State.orRaise_error]
  · simp only [exec, execPaySeekpoint, hadvance hc, State.orRaise_error]
  · simp only [exec, execPayU32le, hadvance hc, State.orRaise_error]
  · simp only [exec, execFmtFramehdr, State.validateFrameHeader_short _ hc, Except.map, State.orRaise_error]

/-- Settles O51: the fetch itself is cut short, before the phase matters. -/
theorem stepWithoutFourBytesIsTruncated : Obligations.StepWithoutFourBytesIsTruncated := by
  intro s hb hh hc
  rw [step_silent hh, engineStep_eq hb, if_neg (not_le.2 hc)]

end Sys2Proof
end

section
/-! PROOFS. The header and its dispatch: what a BLK row leaves when it completes (R143 to R146, R193), which type codes have
a payload decoder (R141, R142), and the field groups a block is made of (R140, R160). -/

namespace Sys2Proof.Machine

variable {s t : State} {h : BlockHeader}

/-! ### The type codes without a payload decoder (R142, R145) -/

/-- The four tags of R142. -/
theorem Tag.hasDecoder_iff {tag : Tag} :
    tag.hasDecoder = true ↔ tag = .streamInfo ∨ tag = .padding ∨ tag = .seekTable ∨ tag = .vorbisComment := by
  cases tag <;> simp [Tag.hasDecoder]

/-- The four type codes of those tags. -/
theorem typeTag_hasDecoder_iff {code : BitVec 7} :
    (typeTag code).hasDecoder = true ↔ code = 0#7 ∨ code = 1#7 ∨ code = 3#7 ∨ code = 4#7 := by
  obtain ⟨h0, h1, h3, h4⟩ := typeTag_eq (code := code)
  rw [Tag.hasDecoder_iff, h0, h1, h3, h4]

/-- Code 2 and every code from 5 on. -/
theorem typeTag_hasDecoder_eq_false {code : BitVec 7} (hc : code.toNat = 2 ∨ 5 ≤ code.toNat) :
    (typeTag code).hasDecoder = false := by
  rw [Bool.eq_false_iff, Ne, typeTag_hasDecoder_iff]
  rintro (rfl | rfl | rfl | rfl) <;> exact absurd hc (by decide)

/-- Without a decoder the dispatch answers Unsupported and reads nothing (R145). -/
theorem State.decodePayload_unsupported (hd : (typeTag s.hdr.blockType).hasDecoder = false) :
    s.decodePayload = .ok (none, s.cur) := by
  unfold State.decodePayload
  cases ht : typeTag s.hdr.blockType with
  | streamInfo | padding | seekTable | vorbisComment => simp [ht, Tag.hasDecoder] at hd
  | application | cueSheet | picture | reserved | invalid => rfl

/-- A code of several in a row: the row's fixed bits, then the operand's free ones (R86). -/
theorem append_toNat {m k : Nat} (high : BitVec m) (low : BitVec k) :
    (high ++ low).toNat = high.toNat * 2 ^ k + low.toNat := by
  rw [BitVec.toNat_append, ← Nat.shiftLeft_add_eq_or_of_lt low.isLt, Nat.shiftLeft_eq]

/-! ### A BLK row, fault or not -/

/-- A BLK row enters one of its faults, or completes the block of its header inside the source (R143, R193, R222). -/
theorem exec_blockHeader_cases {i : Instr} (hi : i.blockHeader = some h) (he : exec i s = .next t) :
    (∃ k ∈ Instr.canRaise i, t = s.raise k)
    ∨ (s.cur + 4 + h.length.toNat ≤ s.src.len
      ∧ ∃ r c, (s.afterHeader h).decodePayload = .ok (r, c) ∧ t = s.afterBlock h r) := by
  rw [exec_of_blockHeader hi, Host.Outcome.next.injEq] at he
  subst he
  rcases s.blocksStep_cases h with hok | ⟨k, hk, hraise⟩
  · obtain ⟨hend, r, c, hr, ht⟩ := State.tryBlocksStep_eq_ok.1 hok
    exact .inr ⟨hend, r, c, hr, ht.trans (s.loopTest_after h r)⟩
  · exact .inl ⟨k, Instr.mem_canRaise_of_tryBlocksStep hi hk, hraise⟩

/-- A BLK row whose payload decodes and whose block ends inside the source completes it. -/
theorem exec_blockHeader_done {i : Instr} {r : Option Payload} {c : Nat} (hi : i.blockHeader = some h)
    (hend : s.cur + 4 + h.length.toNat ≤ s.src.len) (hr : (s.afterHeader h).decodePayload = .ok (r, c)) :
    exec i s = .next (s.afterBlock h r) := by
  rw [exec_of_blockHeader hi, State.blocksStep_done hend hr]

/-- A BLK row of a code without a decoder completes its block, with nothing to append (R145). -/
theorem exec_unsupported {i : Instr} {l : BitVec 1} {c : BitVec 7} {n : BitVec 24} {code : Nat}
    (hi : i.blockHeader = some ⟨l, c, n⟩) (hend : s.cur + 4 + n.toNat ≤ s.src.len) (hc : c.toNat = code)
    (hno : code = 2 ∨ 5 ≤ code) : exec i s = .next (s.afterBlock ⟨l, BitVec.ofNat 7 code, n⟩ none) := by
  subst hc
  have hr := State.decodePayload_unsupported (s := s.afterHeader ⟨l, c, n⟩) (typeTag_hasDecoder_eq_false hno)
  rw [BitVec.ofNat_toNat, BitVec.setWidth_eq, exec_blockHeader_done hi hend hr]

/-- A completed block is appended with its header, if it has a payload (R143, R144). -/
@[simp] theorem State.afterBlock_blocks (s : State) (h : BlockHeader) (r : Option Payload) :
    (s.afterBlock h r).blocks = s.blocks ++ (r.map (MetadataBlock.mk h)).toList := by
  cases r <;> simp [State.afterBlock]

/-! ### The StreamInfo field group (R160) -/

/-- The format PAY.STREAMINFO reads any 34 bytes of the source. -/
theorem decode_streamInfo_bytes (m : Memory) (cur : Nat) :
    decode (.group .streamInfo) (m.bytes cur 34)
      = .ok (.payStreaminfo (StreamInfo.ofWord (groupWord 272 (m.bytes cur 34))), []) := by
  simp [decode, decodeExact, Context.size, List.take_of_length_le]

/-- The dispatch on type code 0 stores that record. -/
theorem State.decodePayload_streamInfo (ht : s.hdr.blockType = 0#7) (hc : s.cur + 34 ≤ s.src.len) :
    s.decodePayload
      = .ok (some (.streamInfo (StreamInfo.ofWord (groupWord 272 (s.src.bytes s.cur 34)))), s.cur + 34) := by
  have hread : s.src.readAt s.cur 34 = .ok (s.src.bytes s.cur 34, s.cur + 34) := Memory.readAt_eq_ok.2 ⟨hc, rfl, rfl⟩
  simp [State.decodePayload, typeTag_eq.1.2 ht, decodeStreamInfo, hread]

end Sys2Proof.Machine

namespace Sys2Proof

open Machine

/-- Settles O11: the four codes are those of the four tags with a decoder. -/
theorem codesWithADecoder : Obligations.CodesWithADecoder := fun _ => typeTag_hasDecoder_iff

/-- Settles O25: the type code of each of the fourteen rows is 2 or at least 5. -/
theorem unsupportedBlocksEndTheLoop : Obligations.UnsupportedBlocksEndTheLoop := by
  intro l n s hend
  exact ⟨exec_unsupported rfl hend rfl (by omega), exec_unsupported rfl hend rfl (by omega),
    exec_unsupported rfl hend rfl (by omega), exec_unsupported rfl hend rfl (by omega),
    fun low => exec_unsupported rfl hend (append_toNat 0b0001#4 low) (by omega),
    fun low => exec_unsupported rfl hend (append_toNat 0b001#3 low) (by omega),
    fun low => exec_unsupported rfl hend (append_toNat 0b01#2 low) (by omega),
    fun low => exec_unsupported rfl hend (append_toNat 0b10#2 low) (by omega),
    fun low => exec_unsupported rfl hend (append_toNat 0b110#3 low) (by omega),
    fun low => exec_unsupported rfl hend (append_toNat 0b1110#4 low) (by omega),
    fun low => exec_unsupported rfl hend (append_toNat 0b11110#5 low) (by omega),
    fun low => exec_unsupported rfl hend (append_toNat 0b111110#6 low) (by omega),
    exec_unsupported rfl hend rfl (by omega), exec_unsupported rfl hend rfl (by omega)⟩

/-- Settles O35: where no fault is entered the block is completed, and a completed block ends where its header says. -/
theorem blockStepResynchronises : Obligations.BlockStepResynchronises := by
  intro i h s t hi he
  rcases exec_blockHeader_cases hi he with hfault | ⟨hend, r, c, -, rfl⟩
  · exact .inl hfault
  · exact .inr ⟨rfl, rfl, rfl, hend⟩

/-- Settles O36: a completed block has a payload exactly when its type code has a decoder; the loop ends without one, and
with one on the last-flag alone. -/
theorem blockStepFrame : Obligations.BlockStepFrame := by
  intro i h s t hi he
  rcases exec_blockHeader_cases hi he with ⟨k, -, hk⟩ | ⟨-, r, c, hr, rfl⟩
  · exact .inl ⟨k, hk⟩
  · obtain ⟨-, hdec, -⟩ := State.decodePayload_ok hr
    replace hdec : (typeTag h.blockType).hasDecoder = r.isSome := hdec
    refine .inr ⟨rfl, rfl, rfl, rfl, rfl, rfl, rfl, rfl, fun _ => rfl, rfl, rfl, ?_⟩
    cases r with
    | none => exact ⟨by simp [hdec], fun _ => ⟨by simp, rfl, rfl⟩, by simp [hdec], by simp [hdec]⟩
    | some p => exact ⟨fun _ => ⟨p, by simp⟩, by simp [hdec], fun _ hl => by simp [hl], fun _ hl => by simp [hl]⟩

/-- Settles O30: each group's own read answers inside the source; the bits row FMT.FRAMEHDR fixes make a legal header. -/
theorem fieldGroupsComplete : Obligations.FieldGroupsComplete := by
  intro s
  have hadvance {n : Nat} (hc : s.cur + n ≤ s.src.len) : s.advance n = .ok { s with cur := s.cur + n } :=
    State.advance_eq_ok.2 ⟨hc, rfl⟩
  refine ⟨fun h hc => ?_, fun si hc => ?_, fun p hc => ?_, fun v hc => ?_, fun c hc => ?_⟩
  · simp only [exec, execFmtBlkhdr, State.decodeHeader_eq_ok.2 ⟨hc, rfl⟩, State.orRaise_ok]
  · simp only [exec, execPayStreaminfo, hadvance hc, State.orRaise_ok]
  · simp only [exec, execPaySeekpoint, hadvance hc, State.orRaise_ok]
  · simp only [exec, execPayU32le, hadvance hc, State.orRaise_ok]
  · have hvalid : (c.header 0#1 0#1).valid = true := FrameHeaderRaw.valid_iff.2 ⟨rfl, rfl, rfl⟩
    simp only [exec, execFmtFramehdr, State.validateFrameHeader_eq_ok.2 ⟨hc, hvalid, rfl, rfl⟩, Except.map,
      State.orRaise_ok]

/-- Settles O34: the header's group leaves the state the payload decoder runs in, and the record read there is the one the
dispatch stores. -/
theorem streamInfoBlockIsItsFieldGroups : Obligations.StreamInfoBlockIsItsFieldGroups := by
  intro l n si s t1 t2 hpay hend hblkhdr hdecode hstreaminfo
  obtain ⟨completesHeader, -⟩ := fieldGroupsComplete s
  rw [completesHeader ⟨l, 0#7, n⟩ (by omega), Host.Outcome.next.injEq] at hblkhdr
  obtain rfl : s.afterHeader ⟨l, 0#7, n⟩ = t1 := hblkhdr
  have hin : (s.afterHeader ⟨l, 0#7, n⟩).cur + 34 ≤ (s.afterHeader ⟨l, 0#7, n⟩).src.len := hpay
  obtain ⟨-, completesRecord, -⟩ := fieldGroupsComplete (s.afterHeader ⟨l, 0#7, n⟩)
  rw [completesRecord si hin, Host.Outcome.next.injEq] at hstreaminfo
  subst hstreaminfo
  have hr := State.decodePayload_streamInfo (s := s.afterHeader ⟨l, 0#7, n⟩) rfl hin
  rw [decode_streamInfo_bytes, Except.ok.injEq, Prod.mk.injEq, Instr.payStreaminfo.injEq] at hdecode
  rw [hdecode.1] at hr
  rw [exec_blockHeader_done rfl hend hr, ← State.loopTest_after]
  rfl

end Sys2Proof
end

section
/-! PROOFS. The four payload decoders: the field groups they read (R160, R164, R123), what each consumes (R176 (b)), and
how the four BLK rows with a decoder complete or fault (R160, R164, R165, R168, R171, R175). -/

namespace Sys2Proof.Machine

variable {s : State} {h : BlockHeader} {k : FaultKind} {cfg : Config} {m : Memory}

/-! ### A BLK row whose payload decoder faults -/

/-- Behind a whole header the payload decoder's fault is the row's (R176 (d)). -/
theorem exec_blockHeader_error {i : Instr} (hi : i.blockHeader = some h) (hc : s.cur + 4 ≤ s.src.len)
    (hp : (s.afterHeader h).decodePayload = .error k) : exec i s = .next (s.raise k) := by
  rw [exec_of_blockHeader hi, State.blocksStep_error hc hp]

/-- A row is Truncated if its payload is, and also where not even its header is whole. -/
theorem exec_blockHeader_truncated {i : Instr} (hi : i.blockHeader = some h)
    (hp : s.cur + 4 ≤ s.src.len → (s.afterHeader h).decodePayload = .error .truncated) :
    exec i s = .next (s.raise .truncated) := by
  by_cases hc : s.cur + 4 ≤ s.src.len
  · exact exec_blockHeader_error hi hc (hp hc)
  · rw [exec_of_blockHeader hi, State.blocksStep_short (not_le.1 hc)]

/-! ### The dispatch on the type codes with a decoder (R142) -/

theorem State.decodePayload_streamInfo_short (ht : s.hdr.blockType = 0#7) (hc : s.src.len < s.cur + 34) :
    s.decodePayload = .error .truncated := by
  simp [State.decodePayload, typeTag_eq.1.2 ht, decodeStreamInfo, Memory.readAt_eq_error.2 ⟨hc, rfl⟩]

theorem State.decodePayload_padding (ht : s.hdr.blockType = 1#7) (hc : s.blockEnd ≤ s.src.len) :
    s.decodePayload = .ok (some (.padding s.hdr.length), s.blockEnd) := by
  simp [State.decodePayload, typeTag_eq.2.1.2 ht, decodePadding, Memory.seek_eq_ok.2 ⟨hc, rfl⟩]

theorem State.decodePayload_padding_short (ht : s.hdr.blockType = 1#7) (hc : s.src.len < s.blockEnd) :
    s.decodePayload = .error .truncated := by
  simp [State.decodePayload, typeTag_eq.2.1.2 ht, decodePadding, Memory.seek, hc]

theorem State.decodePayload_seekTable (ht : s.hdr.blockType = 3#7) :
    s.decodePayload
      = (decodeSeekTable s.src s.hdr.length s.cur).map fun p => (some (.seekTable p.1), p.2) := by
  simp only [State.decodePayload, typeTag_eq.2.2.1.2 ht]
  cases decodeSeekTable s.src s.hdr.length s.cur <;> rfl

theorem State.decodePayload_vorbisComment (ht : s.hdr.blockType = 4#7) :
    s.decodePayload
      = (decodeVorbisComment s.cfg s.src s.cur).map fun p => (some (.vorbisComment p.1), p.2) := by
  simp only [State.decodePayload, typeTag_eq.2.2.2.2 ht]
  cases decodeVorbisComment s.cfg s.src s.cur <;> rfl

/-- Behind a whole header BLK.VORBISCOMMENT faults as its decoder does (R171). -/
theorem exec_blkVorbiscomment_error {l : BitVec 1} {n : BitVec 24} (hc : s.cur + 4 ≤ s.src.len)
    (hd : decodeVorbisComment s.cfg s.src (s.cur + 4) = .error k) :
    exec (.blkVorbiscomment l n) s = .next (s.raise k) := by
  refine exec_blockHeader_error rfl hc ?_
  rw [State.decodePayload_vorbisComment rfl, hd]
  rfl

/-! ### The field groups the decoders read (R160, R164, R123) -/

theorem decodeStreamInfo_inside {cur : Nat} (hc : cur + 34 ≤ m.len) :
    decodeStreamInfo m cur = .ok (StreamInfo.ofWord (groupWord 272 (m.bytes cur 34)), cur + 34) := by
  simp [decodeStreamInfo, Memory.readAt_eq_ok.2 ⟨hc, rfl, rfl⟩]

theorem decodeSeekPoint_inside {cur : Nat} (hc : cur + 18 ≤ m.len) :
    decodeSeekPoint m cur = .ok (SeekPoint.ofWord (groupWord 144 (m.bytes cur 18)), cur + 18) := by
  simp [decodeSeekPoint, Memory.readAt_eq_ok.2 ⟨hc, rfl, rfl⟩]

theorem readU32le_inside {cur : Nat} (hc : cur + 4 ≤ m.len) :
    readU32le m cur = .ok (u32le (m.bytes cur 4), cur + 4) := by
  simp [readU32le, Memory.readAt_eq_ok.2 ⟨hc, rfl, rfl⟩]

theorem readU32le_short {cur : Nat} (hc : m.len < cur + 4) : readU32le m cur = .error .truncated := by
  simp [readU32le, Memory.readAt_eq_error.2 ⟨hc, rfl⟩]

theorem decode_seekPoint_bytes (m : Memory) (cur : Nat) :
    decode (.group .seekPoint) (m.bytes cur 18)
      = .ok (.paySeekpoint (SeekPoint.ofWord (groupWord 144 (m.bytes cur 18))), []) := by
  simp [decode, decodeExact, Context.size, List.take_of_length_le]

theorem decode_u32le_bytes (m : Memory) (cur : Nat) :
    decode (.group .u32le) (m.bytes cur 4) = .ok (.payU32le (u32le (m.bytes cur 4)), []) := by
  simp [decode, decodeExact, Context.size, List.take_of_length_le]

/-! ### What a VorbisComment consumes (R168, R176 (b)) -/

/-- A computation that answers: its first part answered, and the rest did on that answer. -/
theorem except_bind_eq_ok {α β : Type} {x : Except FaultKind α} {f : α → Except FaultKind β} {b : β} :
    (x >>= f) = .ok b ↔ ∃ a, x = .ok a ∧ f a = .ok b := by
  cases x <;> simp

theorem readU32le_eq_ok {cur c : Nat} {v : BitVec 32} :
    readU32le m cur = .ok (v, c) ↔ cur + 4 ≤ m.len ∧ v = u32le (m.bytes cur 4) ∧ c = cur + 4 := by
  by_cases hc : cur + 4 ≤ m.len
  · simp [readU32le_inside hc, hc, eq_comm]
  · simp [readU32le_short (not_le.1 hc), hc]

/-- A string that is read takes its length field and its bytes (R124). -/
theorem readString_consumes {cur c : Nat} {b : List Byte} (hd : readString cfg m cur = .ok (b, c)) :
    c = cur + 4 + b.length := by
  obtain ⟨⟨n, c1⟩, hn, hd⟩ := except_bind_eq_ok.1 hd
  obtain ⟨⟨b', c2⟩, hb, hd⟩ := except_bind_eq_ok.1 hd
  obtain ⟨-, -, hd⟩ := except_bind_eq_ok.1 hd
  obtain ⟨-, -, rfl⟩ := readU32le_eq_ok.1 hn
  obtain ⟨-, rfl, rfl⟩ := Memory.readAt_eq_ok.1 hb
  obtain ⟨rfl, rfl⟩ := Prod.mk.inj (Except.ok.inj hd)
  rw [Memory.bytes_length]

/-- The comment loop takes its strings one after the other, and never leaves the source. -/
theorem readStrings_consumes {n cur c : Nat} {bs : List (List Byte)} (hd : readStrings cfg m n cur = .ok (bs, c))
    (hcur : cur ≤ m.len) : c = cur + (bs.map fun b => 4 + b.length).sum ∧ c ≤ m.len := by
  induction n generalizing cur bs with
  | zero =>
    obtain ⟨rfl, rfl⟩ := Prod.mk.inj (Except.ok.inj hd)
    exact ⟨rfl, hcur⟩
  | succ n ih =>
    obtain ⟨⟨b, c1⟩, hb, hd⟩ := except_bind_eq_ok.1 hd
    obtain ⟨⟨bs', c2⟩, hbs, hd⟩ := except_bind_eq_ok.1 hd
    obtain ⟨rfl, rfl⟩ := Prod.mk.inj (Except.ok.inj hd)
    have hc1 := readString_consumes hb
    obtain ⟨-, -, hin⟩ := readString_ok hb
    obtain ⟨hc2, hle⟩ := ih hbs hin
    refine ⟨?_, hle⟩
    rw [List.map_cons, List.sum_cons]
    omega

/-- A VorbisComment takes its two length fields besides its strings (R168). -/
theorem decodeVorbisComment_consumes {cur c : Nat} {vc : VorbisComment}
    (hd : decodeVorbisComment cfg m cur = .ok (vc, c)) :
    c = cur + 8 + vc.vendor.length + (vc.comments.map fun b => 4 + b.length).sum ∧ c ≤ m.len := by
  obtain ⟨⟨vendor, c1⟩, hv, hd⟩ := except_bind_eq_ok.1 hd
  obtain ⟨⟨count, c2⟩, hn, hd⟩ := except_bind_eq_ok.1 hd
  obtain ⟨⟨comments, c3⟩, hcs, hd⟩ := except_bind_eq_ok.1 hd
  obtain ⟨rfl, rfl⟩ := Prod.mk.inj (Except.ok.inj hd)
  have hc1 := readString_consumes hv
  obtain ⟨hin, -, rfl⟩ := readU32le_eq_ok.1 hn
  obtain ⟨hc3, hle⟩ := readStrings_consumes hcs hin
  refine ⟨?_, hle⟩
  dsimp only
  omega

/-! ### Payload bytes laid out in the source (R87) -/

/-- The source holds these bytes, whole, from an address on. -/
abbrev Memory.Holds (m : Memory) (a : Nat) (bytes : List Byte) : Prop :=
  a + bytes.length ≤ m.len ∧ m.bytes a bytes.length = bytes

/-- What lies in the source one after the other lies there as one. -/
theorem Memory.Holds.split {a : Nat} {x y : List Byte} (hxy : m.Holds a (x ++ y)) :
    m.Holds a x ∧ m.Holds (a + x.length) y := by
  obtain ⟨hl, hb⟩ := hxy
  obtain ⟨hx, hy⟩ := Memory.bytes_split hb
  rw [List.length_append] at hl
  exact ⟨⟨by omega, hx⟩, ⟨by omega, hy⟩⟩

/-- A count or length laid out at the cursor. -/
theorem readU32le_laidOut {a v : Nat} (hv : v < 2 ^ 32) (hm : m.Holds a (leBytes 4 v)) :
    ∃ n, readU32le m a = .ok (n, a + 4) ∧ n.toNat = v := by
  obtain ⟨hl, hb⟩ := hm
  rw [leBytes_length] at hl hb
  exact ⟨_, readU32le_inside hl, by rw [hb, u32le_leBytes v hv]⟩

/-- A string cut in its length field or in its bytes (R123, R124): the check of R127 is not reached. -/
theorem readString_short {cur : Nat} (hc : m.len < cur + 4 + (u32le (m.bytes cur 4)).toNat) :
    readString cfg m cur = .error .truncated := by
  by_cases hl : cur + 4 ≤ m.len
  · simp [readString, readU32le_inside hl, Memory.readAt_eq_error.2 ⟨hc, rfl⟩]
  · simp [readString, readU32le_short (not_le.1 hl)]

/-- A fault of the vendor string is the decoder's: the count is not read (R171). -/
theorem decodeVorbisComment_vendor_error {a : Nat} (hv : readString cfg m a = .error k) :
    decodeVorbisComment cfg m a = .error k := by
  simp [decodeVorbisComment, hv]

/-- A string laid out at the cursor that passes the check. -/
theorem readString_valid {a : Nat} {x : List Byte} (hx : x.length < 2 ^ 32) (hv : cfg.utf8Valid x = true)
    (hm : m.Holds a (stringBytes x)) : readString cfg m a = .ok (x, a + (stringBytes x).length) := by
  rw [readString_laidOut hx hm.1 hm.2, if_pos hv]

/-- A string laid out at the cursor that does not (R127). -/
theorem readString_invalid {a : Nat} {x : List Byte} (hx : x.length < 2 ^ 32) (hv : cfg.utf8Valid x = false)
    (hm : m.Holds a (stringBytes x)) : readString cfg m a = .error .invalidUtf8 := by
  rw [readString_laidOut hx hm.1 hm.2, if_neg (Bool.eq_false_iff.1 hv)]

/-- A VorbisComment payload up to a comment: the vendor, a count, and the comments before it (R87). -/
def vorbisFront (vendor : List Byte) (count : Nat) (good : List (List Byte)) : List Byte :=
  stringBytes vendor ++ leBytes 4 count ++ (good.map stringBytes).flatten

/-- A whole payload is a front whose count is the number of its comments. -/
theorem vorbisBytes_eq_vorbisFront (vendor : List Byte) (comments : List (List Byte)) :
    vorbisBytes vendor comments = vorbisFront vendor comments.length comments := rfl

/-- Strings of the format whose lengths fit their fields and which pass UTF8_VALID. -/
abbrev ValidStrings (cfg : Config) (xs : List (List Byte)) : Prop :=
  (∀ x ∈ xs, x.length < 2 ^ 32) ∧ ∀ x ∈ xs, cfg.utf8Valid x = true

section
variable {a j : Nat} {vendor : List Byte} {good : List (List Byte)}
  (hv : vendor.length < 2 ^ 32) (hvalid : cfg.utf8Valid vendor = true)
include hv hvalid

/-- Behind a valid vendor a cut count is Truncated (R123). -/
theorem decodeVorbisComment_count_short (hm : m.Holds a (stringBytes vendor))
    (hc : m.len < a + (stringBytes vendor).length + 4) : decodeVorbisComment cfg m a = .error .truncated := by
  simp [decodeVorbisComment, readString_valid hv hvalid hm, readU32le_short hc]

/-- Behind a front of valid strings the decoder has read them all, and has the rest of the count left (R168). -/
theorem decodeVorbisComment_front (hgood : ValidStrings cfg good) (hcount : good.length + j < 2 ^ 32)
    (hm : m.Holds a (vorbisFront vendor (good.length + j) good)) :
    decodeVorbisComment cfg m a
      = (readStrings cfg m j (a + (vorbisFront vendor (good.length + j) good).length)).map
          fun p => (⟨vendor, good ++ p.1⟩, p.2) := by
  obtain ⟨hfront, hstrings⟩ := hm.split
  obtain ⟨hvendor, hnumber⟩ := hfront.split
  obtain ⟨n, hn, hnat⟩ := readU32le_laidOut hcount hnumber
  rw [List.length_append, leBytes_length, ← Nat.add_assoc] at hstrings
  have hloop := readStrings_laidOut hgood.1 hgood.2 hstrings.1 hstrings.2 j
  have hend : a + (vorbisFront vendor (good.length + j) good).length
      = a + (stringBytes vendor).length + 4 + (good.map stringBytes).flatten.length := by
    simp only [vorbisFront, List.length_append, leBytes_length]
    omega
  rw [hend]
  simp only [decodeVorbisComment, readString_valid hv hvalid hvendor, except_ok_bind, hn, hnat, hloop]
  cases readStrings cfg m j _ <;> rfl

/-- A fault of the comment behind such a front is the decoder's, if the count asks for that comment (R171). -/
theorem decodeVorbisComment_comment_error {count : BitVec 32} (hgood : ValidStrings cfg good)
    (hcount : good.length < count.toNat) (hm : m.Holds a (vorbisFront vendor count.toNat good))
    (hbad : readString cfg m (a + (vorbisFront vendor count.toNat good).length) = .error k) :
    decodeVorbisComment cfg m a = .error k := by
  obtain ⟨j, hj⟩ : ∃ j, count.toNat = good.length + (j + 1) := ⟨count.toNat - good.length - 1, by omega⟩
  have hfit := count.isLt
  rw [hj] at hm hbad hfit
  rw [decodeVorbisComment_front hv hvalid hgood hfit hm]
  simp [readStrings, hbad, Except.map]

end

end Sys2Proof.Machine

namespace Sys2Proof

open Machine

/-- Settles O21: the payload is a front with no further comment behind it. -/
theorem vorbisCommentBlockCompletes : Obligations.VorbisCommentBlockCompletes := by
  intro l n s vendor comments hvendor hcount hlengths hvalid hcomments hin hbytes hend
  have hd := decodeVorbisComment_front (j := 0) hvendor hvalid ⟨hlengths, hcomments⟩ hcount ⟨hin, hbytes⟩
  refine exec_blockHeader_done rfl hend (c := s.cur + 4 + (vorbisBytes vendor comments).length) ?_
  rw [vorbisBytes_eq_vorbisFront, State.decodePayload_vorbisComment rfl]
  simp only [hd, readStrings, Except.map, List.append_nil]
  rfl

/-- Settles O23: the comments before the bad one, and the count that asks for it, are a front. -/
theorem invalidCommentRaises : Obligations.InvalidCommentRaises := by
  intro l n s vendor bad good count hvendor hbad hlengths hvalid hgood hinvalid hcount hpayload
  obtain ⟨hfront, hcomment⟩ := Memory.Holds.split (x := vorbisFront vendor count.toNat good) hpayload
  exact exec_blkVorbiscomment_error (Nat.le_of_add_right_le hfront.1)
    (decodeVorbisComment_comment_error hvendor hvalid ⟨hlengths, hgood⟩ hcount hfront
      (readString_invalid hbad hinvalid hcomment))

/-- Settles O57: behind a valid vendor the count is cut, or behind a front the comment is. -/
theorem cutCommentIsTruncated : Obligations.CutCommentIsTruncated := by
  intro l n s vendor hvendor hvalid hin hbytes
  have hheader : s.cur + 4 ≤ s.src.len := Nat.le_of_add_right_le hin
  refine ⟨fun hshort => ?_, fun good count hlengths hgood hcount => ?_⟩
  · exact exec_blkVorbiscomment_error hheader (decodeVorbisComment_count_short hvendor hvalid ⟨hin, hbytes⟩ hshort)
  · intro front here hfrontIn hfront
    have hcut (hshort : s.src.len < here + 4 + (u32le (s.src.bytes here 4)).toNat) :
        exec (.blkVorbiscomment l n) s = .next (s.raise .truncated) :=
      exec_blkVorbiscomment_error hheader (decodeVorbisComment_comment_error hvendor hvalid ⟨hlengths, hgood⟩ hcount
        ⟨hfrontIn, hfront⟩ (readString_short hshort))
    exact ⟨fun hlength => hcut (by omega), fun _ hstring => hcut hstring⟩

/-- Settles O22: the vendor's own read faults, and nothing after it is looked at. -/
theorem invalidVendorRaises : Obligations.InvalidVendorRaises := by
  intro l n s vendor hvendor hinvalid hin hbytes
  exact exec_blkVorbiscomment_error (Nat.le_of_add_right_le hin)
    (decodeVorbisComment_vendor_error (readString_invalid hvendor hinvalid ⟨hin, hbytes⟩))

/-- Settles O24: the vendor's own read is cut, in its length or in its bytes, unless the header is. -/
theorem cutVendorIsTruncated : Obligations.CutVendorIsTruncated := by
  intro l n s
  have hcut (hshort : s.src.len < s.cur + 4 + 4 + (u32le (s.src.bytes (s.cur + 4) 4)).toNat) :
      exec (.blkVorbiscomment l n) s = .next (s.raise .truncated) := by
    refine exec_blockHeader_truncated rfl fun _ => ?_
    rw [State.decodePayload_vorbisComment rfl, decodeVorbisComment_vendor_error (readString_short hshort)]
    rfl
  exact ⟨fun hlength => hcut (by omega), fun _ hstring => hcut hstring⟩

/-- Settles O19: `length div 18` records of 18 bytes are the whole payload. -/
theorem seekTableBlockCompletes : Obligations.SeekTableBlockCompletes := by
  intro l n s hmod hend
  have hin : s.cur + 4 + 18 * (n.toNat / 18) ≤ s.src.len := by omega
  refine exec_blockHeader_done rfl hend (c := s.cur + 4 + 18 * (n.toNat / 18)) ?_
  rw [State.decodePayload_seekTable rfl, decodeSeekTable, if_neg (not_not.2 hmod), decodeSeekPoints_inside _ _ _ hin]
  rfl

/-- Settles O20: the length test stands before the record loop, and the loop is cut if the payload is. -/
theorem seekTableLengthTestFirst : Obligations.SeekTableLengthTestFirst := by
  refine fun l n s => ⟨fun hheader hmod => ?_, fun hmod hshort => ?_, rfl, rfl, rfl⟩
  · refine exec_blockHeader_error rfl hheader ?_
    rw [State.decodePayload_seekTable rfl, decodeSeekTable, if_pos hmod]
    rfl
  · refine exec_blockHeader_truncated rfl fun hheader => ?_
    have hcut : s.src.len < s.cur + 4 + 18 * (n.toNat / 18) := by omega
    rw [State.decodePayload_seekTable rfl, decodeSeekTable, if_neg (not_not.2 hmod),
      decodeSeekPoints_short _ _ _ hcut hheader]
    rfl

/-- Settles O15: each decoder's reads, added up; Padding's seek goes to the end its header declares. -/
theorem bytesConsumedByPayloadDecoders : Obligations.BytesConsumedByPayloadDecoders := by
  refine ⟨fun m cur c si hd => ?_, fun m n cur c ps hd => ?_, fun cfg m cur c vc => decodeVorbisComment_consumes,
    fun s n c hcur hd => ?_⟩
  · obtain ⟨⟨b, c'⟩, hread, hd⟩ := except_bind_eq_ok.1 hd
    obtain ⟨-, -, rfl⟩ := Memory.readAt_eq_ok.1 hread
    exact (Prod.mk.inj (Except.ok.inj hd)).2.symm
  · obtain ⟨hlength, hc⟩ := decodeSeekTable_ok hd
    exact ⟨hc, hlength.symm⟩
  · obtain ⟨c', hseek, hd⟩ := except_bind_eq_ok.1 hd
    obtain ⟨hin, rfl⟩ := Memory.seek_eq_ok.1 hseek
    obtain ⟨rfl, rfl⟩ := Prod.mk.inj (Except.ok.inj hd)
    exact ⟨by rw [State.blockEnd, hcur], rfl, hin⟩

/-- Settles O17: the 34 bytes behind the header are read or cut, whatever length the header has. -/
theorem streamInfoBlockCompletes : Obligations.StreamInfoBlockCompletes := by
  refine fun l n s => ⟨fun hin hend => ?_, fun hshort => ?_⟩
  · exact exec_blockHeader_done rfl hend (State.decodePayload_streamInfo (s := s.afterHeader ⟨l, 0#7, n⟩) rfl hin)
  · exact exec_blockHeader_truncated rfl fun _ => State.decodePayload_streamInfo_short rfl hshort

/-- Settles O18: the decoder's seek goes to the end its header declares, or that end is past the source. -/
theorem paddingBlockSkips : Obligations.PaddingBlockSkips := by
  refine fun l n s => ⟨fun hend => ?_, fun hshort => ?_⟩
  · exact exec_blockHeader_done rfl hend (State.decodePayload_padding (s := s.afterHeader ⟨l, 1#7, n⟩) rfl hend)
  · exact exec_blockHeader_truncated rfl fun _ => State.decodePayload_padding_short rfl hshort

/-- Settles O32: group and decoder read the same bytes the same way. -/
theorem payloadDecodersUseTheFieldGroups : Obligations.PayloadDecodersUseTheFieldGroups := fun m cur =>
  ⟨fun hc => ⟨_, decode_streamInfo_bytes m cur, decodeStreamInfo_inside hc⟩,
    fun hc => ⟨_, decode_seekPoint_bytes m cur, decodeSeekPoint_inside hc⟩,
    fun hc => ⟨_, decode_u32le_bytes m cur, readU32le_inside hc⟩⟩

end Sys2Proof
end

section
/-! PROOFS. The container: the signature check (R192), the look-ups (R196), the hand-over of the frame header (R197), what the
elements other than blocks leave unchanged, START and the step that runs an element (R190, R191), and the shortest source a
parse accepts (R199 (b)). -/

namespace Sys2Proof.Machine

variable {s t : State} {i : Instr}

/-! ### The look-ups (R196) -/

/-- The linear scan is the library's first index of a block whose payload is of the kind. -/
theorem firstOf_eq_findIdx? (kind : Payload → Bool) (blocks : List MetadataBlock) :
    firstOf kind blocks = blocks.findIdx? fun b => kind b.payload := by
  induction blocks with
  | nil => rfl
  | cons b rest ih => rw [firstOf, List.findIdx?_cons, ih]

/-- The scan for the payloads that one constructor makes finds the least index at which one stands. -/
theorem firstOf_eq_some_iff {α : Type} {kind : Payload → Bool} {mk : α → Payload}
    (hkind : ∀ p, kind p = true ↔ ∃ x, p = mk x) (blocks : List MetadataBlock) (n : Nat) :
    firstOf kind blocks = some n ↔
      (∃ h x, blocks[n]? = some ⟨h, mk x⟩) ∧ ∀ j, j < n → ∀ h x, blocks[j]? ≠ some ⟨h, mk x⟩ := by
  have hat (j : Nat) : (∃ h x, blocks[j]? = some ⟨h, mk x⟩)
      ↔ ∃ hj : j < blocks.length, kind blocks[j].payload = true := by
    constructor
    · rintro ⟨h, x, hx⟩
      obtain ⟨hj, hx⟩ := List.getElem?_eq_some_iff.1 hx
      exact ⟨hj, (hkind _).2 ⟨x, by rw [hx]⟩⟩
    · rintro ⟨hj, hk⟩
      obtain ⟨x, hx⟩ := (hkind _).1 hk
      exact ⟨blocks[j].header, x, by rw [List.getElem?_eq_getElem hj, ← hx]⟩
  have hnot (j : Nat) : (∀ h x, blocks[j]? ≠ some ⟨h, mk x⟩)
      ↔ ¬ ∃ hj : j < blocks.length, kind blocks[j].payload = true := by
    simp only [← hat, not_exists, ne_eq]
  simp only [firstOf_eq_findIdx?, List.findIdx?_eq_some_iff_getElem, hat, hnot]
  constructor
  · rintro ⟨hn, hk, hmin⟩
    exact ⟨⟨hn, hk⟩, fun j hj ⟨_, hkj⟩ => hmin j hj hkj⟩
  · rintro ⟨⟨hn, hk⟩, hmin⟩
    exact ⟨hn, hk, fun j hj hkj => hmin j hj ⟨hj.trans hn, hkj⟩⟩

/-! ### Elements other than blocks, fault or not -/

/-- An operation that may raise: its fault is entered, or it gave the state. -/
theorem State.raised_or {r : Except FaultKind State} {P : Prop} (ht : s.orRaise r = t) (hok : r = .ok t → P) :
    (∃ k, t = s.raise k) ∨ P := by
  cases r with
  | ok u => exact .inr (hok (congrArg Except.ok ht))
  | error k => exact .inl ⟨k, ht.symm⟩

/-- A MAGIC, a row of phase Frame or a field group enters a fault, or writes what its rule names: the cursor, and with it
PHASE for MAGIC, the result for a Frame row, the header registers for FMT.BLKHDR (R192, R197, R140, R120). -/
theorem exec_other_cases (hi : i.blockHeader = none) (he : exec i s = .next t) :
    (∃ k, t = s.raise k)
    ∨ (i.context = .element .magic ∧ t = { s with cur := s.cur + 4, phase := .blocks })
    ∨ (i.context = .element .frame
        ∧ ∃ f, t = { s.lookups with cur := s.cur + 4, frame := some f, status := .done })
    ∨ (i.context = .group .blkhdr ∧ ∃ h, t = s.afterHeader h)
    ∨ ∃ n, t = { s with cur := s.cur + n } := by
  cases i with
  | magic sig =>
    refine State.raised_or (Host.Outcome.next.inj he) fun hok => ?_
    exact .inl ⟨rfl, (State.validateMagic_eq_ok.1 hok).2.2⟩
  | framehdr | framehdrReserved1 | framehdrReserved2 =>
    refine State.raised_or (Host.Outcome.next.inj he) fun hok => ?_
    exact .inr (.inl ⟨rfl, _, (State.tryFrameStep_eq_ok.1 hok).2.2⟩)
  | fmtBlkhdr h =>
    refine State.raised_or (Host.Outcome.next.inj he) fun hok => ?_
    exact .inr (.inr (.inl ⟨rfl, h, (State.decodeHeader_eq_ok.1 hok).2⟩))
  | payStreaminfo | paySeekpoint | payU32le =>
    refine State.raised_or (Host.Outcome.next.inj he) fun hok => ?_
    exact .inr (.inr (.inr ⟨_, (State.advance_eq_ok.1 hok).2⟩))
  | fmtFramehdr c =>
    obtain ⟨-, -, -, -, hcomplete⟩ := fieldGroupsComplete s
    obtain ⟨-, -, -, -, hshort⟩ := fieldGroupsTruncated s
    rcases le_or_gt (s.cur + 4) s.src.len with hc | hc
    · rw [hcomplete c hc, Host.Outcome.next.injEq] at he
      exact .inr (.inr (.inr (.inr ⟨4, he.symm⟩)))
    · rw [hshort c hc, Host.Outcome.next.injEq] at he
      exact .inl ⟨_, he.symm⟩
  | _ => cases hi

/-! ### START and the step that runs an element (R190, R191) -/

/-- START in a machine that is not Busy clears it and takes the source; the host's further moves stay. -/
theorem step_start {bytes : List Byte} {rest : List HostMove} (hh : s.host = .start bytes :: rest)
    (hb : s.status ≠ .busy) : step s = .next (State.start { s with host := rest } bytes) := by
  rw [step_move hh (by simp)]
  cases hs : s.status with
  | busy => exact absurd hs hb
  | idle | done | failed => simp [hostMove]

/-- Four bytes of the source, decoded in a phase, are the element that their word is (R81). -/
theorem decode_element_bytes (p : Phase) (m : Memory) (cur : Nat) :
    decode (.element p) (m.bytes cur 4) = .ok (decodeWord p (groupWord 32 (m.bytes cur 4)), []) := by
  simp [decode, decodeExact, Context.size, List.take_of_length_le]

/-- While Busy the engine executes the element decoded from the four bytes at the cursor. -/
theorem engineStep_of_decode (hb : s.status = .busy) (hc : s.cur + 4 ≤ s.src.len)
    (hd : decode (.element s.phase) (s.src.bytes s.cur 4) = .ok (i, [])) : engineStep s = exec i s := by
  rw [decode_element_bytes, Except.ok.injEq, Prod.mk.injEq] at hd
  rw [engineStep_busy hb, State.fetch_eq_ok.2 ⟨hc, hd.1.symm⟩]

/-! ### The bytes a parse takes (R198, R199 (b)) -/

/-- The word at the cursor is there only inside the source. -/
theorem State.wordAt_ok {W : Word} (hw : s.wordAt = .ok W) : s.cur + 4 ≤ s.src.len := by
  by_contra hc
  rw [State.wordAt_short hc] at hw
  cases hw

/-- The loop takes at least one block header. -/
theorem parseLoop_progress {n : Nat} (hl : parseLoop n s = .ok t) : s.cur + 4 ≤ t.cur ∧ t.src = s.src := by
  induction n generalizing s with
  | zero => cases hl
  | succ n ih =>
    rw [parseLoop_succ] at hl
    obtain ⟨W, -, hl⟩ := except_bind_eq_ok.1 hl
    obtain ⟨⟨u, unsupported⟩, hd, hl⟩ := except_bind_eq_ok.1 hl
    obtain ⟨-, r, c, -, -, hu⟩ := State.decodeBlock_eq_ok.1 hd
    have hcur : s.cur + 4 ≤ u.cur := by rw [hu]; exact Nat.le_add_right _ _
    have hsrc : u.src = s.src := by rw [hu]
    split_ifs at hl
    · cases hl
      exact ⟨hcur, hsrc⟩
    · cases hl
      exact ⟨hcur, hsrc⟩
    · obtain ⟨hcur', hsrc'⟩ := ih hl
      exact ⟨hcur.trans ((Nat.le_add_right _ 4).trans hcur'), hsrc'.trans hsrc⟩

/-- A parse that answers with a container took a signature, a block header and a frame header. -/
theorem parseState_length (hp : parseState s = .ok t) : s.cur + 12 ≤ s.src.len := by
  rw [parseState_eq] at hp
  obtain ⟨W, -, hp⟩ := except_bind_eq_ok.1 hp
  obtain ⟨afterMagic, hmagic, hp⟩ := except_bind_eq_ok.1 hp
  obtain ⟨afterLoop, hloop, hp⟩ := except_bind_eq_ok.1 hp
  obtain ⟨W', hword, -⟩ := except_bind_eq_ok.1 hp
  obtain ⟨-, -, rfl⟩ := State.validateMagic_eq_ok.1 hmagic
  obtain ⟨hcur, hsrc⟩ := parseLoop_progress hloop
  have hframe := State.wordAt_ok hword
  simp only at hcur hsrc
  rw [hsrc] at hframe
  omega

end Sys2Proof.Machine

namespace Sys2Proof

open Machine

/-- Settles O29: each look-up is the scan for one constructor's payloads. -/
theorem lookupsFindTheFirst : Obligations.LookupsFindTheFirst := by
  refine fun s => ⟨firstOf_eq_some_iff (fun p => ?_) s.blocks, firstOf_eq_some_iff (fun p => ?_) s.blocks,
    firstOf_eq_some_iff (fun p => ?_) s.blocks⟩
  · cases p <;> simp [Payload.isStreamInfo]
  · cases p <;> simp [Payload.isSeekTable]
  · cases p <;> simp [Payload.isVorbisComment]

/-- Settles O37: what each kind of element writes, read for what it does not write. -/
theorem otherElementsFrame : Obligations.OtherElementsFrame := by
  intro i s t hi he
  rcases exec_other_cases hi he with hfault | ⟨hc, rfl⟩ | ⟨hc, f, rfl⟩ | ⟨hc, h, rfl⟩ | ⟨n, rfl⟩
  · exact .inl hfault
  all_goals refine .inr ⟨rfl, rfl, rfl, rfl, rfl, fun _ => rfl, rfl, rfl, Nat.le_add_right _ _, ?_⟩
  · exact ⟨fun _ => ⟨rfl, rfl, rfl, rfl, rfl⟩, fun hne => absurd hc hne, fun _ => ⟨rfl, rfl⟩⟩
  · exact ⟨fun hne => absurd hc hne, fun _ => rfl, fun _ => ⟨rfl, rfl⟩⟩
  · exact ⟨fun _ => ⟨rfl, rfl, rfl, rfl, rfl⟩, fun _ => rfl, fun hne => absurd hc hne⟩
  · exact ⟨fun _ => ⟨rfl, rfl, rfl, rfl, rfl⟩, fun _ => rfl, fun _ => ⟨rfl, rfl⟩⟩

/-- Settles O56: a parse that does not fail took twelve bytes. -/
theorem shortSourcesFail : Obligations.ShortSourcesFail := by
  intro cfg src hlen
  rw [parse_eq]
  cases hp : parseState (State.start { State.reset with cfg := cfg } src) with
  | error k => exact ⟨_, k, rfl⟩
  | ok t =>
    have hlong := parseState_length hp
    simp only [State.start_cur, State.start_src, Memory.ofBytes_len] at hlong
    omega

/-- Settles O16: the read comes before the comparison. -/
theorem signatureCheck : Obligations.SignatureCheck := by
  intro sig s
  refine ⟨fun hc hm => ?_, fun hc hm => ?_, fun hc => ?_⟩
  · simp only [exec, execMagic, State.validateMagic_eq_ok.2 ⟨hc, hm, rfl⟩, State.orRaise_ok]
  · simp [exec, execMagic, State.validateMagic, State.advance_eq_ok.2 ⟨hc, rfl⟩, hm]
  · simp [exec, execMagic, State.validateMagic, State.advance_eq_error.2 ⟨hc, rfl⟩]

/-- Settles O27: the header is legal, so the Frame step completes. -/
theorem frameHeaderAccepted : Obligations.FrameHeaderAccepted := by
  intro f s hc hsync h1 h2
  have hok := State.tryFrameStep_eq_ok.2 ⟨hc, FrameHeaderRaw.valid_iff.2 ⟨hsync, h1, h2⟩, rfl⟩
  simp only [exec, execFramehdr, State.frameStep, hok, State.orRaise_ok]
  rfl

/-- Settles O43, by STATUS: what START clears and takes is `State.start`. -/
theorem startBeginsAParse : Obligations.StartBeginsAParse := by
  refine fun s bytes rest hh => ⟨step_start hh, fun hb => ?_⟩
  simp [step_move hh, hostMove, hb]

/-- Settles O44: the machine START leaves names nothing of the one it found but the configuration. -/
theorem startForgetsEarlierParses : Obligations.StartForgetsEarlierParses := by
  intro s1 s2 bytes rest hb1 hb2 hcfg hh1 hh2
  rw [(startBeginsAParse s1 bytes rest hh1).1 hb1, (startBeginsAParse s2 bytes rest hh2).1 hb2, hcfg]

/-- Settles O50: with the host silent the step is the engine's, and so it is after the move `nothing`. -/
theorem stepRunsTheDecodedElement : Obligations.StepRunsTheDecodedElement := by
  refine fun s i rest hb hc hd => ⟨fun hh => ?_, fun hh => ?_⟩
  · rw [step_silent hh, engineStep_of_decode hb hc hd]
  · exact (step_nothing hh).trans (engineStep_of_decode (s := { s with host := rest }) hb hc hd)

end Sys2Proof
end

section
/-! PROOFS. The frame-header validator's faults in their order: the read, the sync pattern, the reserved bits (R210, R212,
R213, R214 (a)). -/

namespace Sys2Proof.Machine

variable {s : State} {f : FrameHeaderRaw} {k : FaultKind}

/-! ### The validator's two tests -/

/-- The sync pattern is compared before the reserved bits are looked at (R212). -/
theorem State.validateFrameHeader_bad_sync (hc : s.cur + 4 ≤ s.src.len) (hsync : f.sync ≠ syncPattern) :
    s.validateFrameHeader f = .error .syncMismatch := by
  simp [State.validateFrameHeader, State.advance_eq_ok.2 ⟨hc, rfl⟩, hsync]

/-- Behind a good sync either reserved bit is a fault (R213). -/
theorem State.validateFrameHeader_reserved (hc : s.cur + 4 ≤ s.src.len) (hsync : f.sync = syncPattern)
    (hr : f.reservedClear = false) : s.validateFrameHeader f = .error .reservedBitSet := by
  simp [State.validateFrameHeader, State.advance_eq_ok.2 ⟨hc, rfl⟩, hsync, hr]

/-! ### The Frame step on each fault -/

/-- A fault of the validator discards the look-ups that came before it (R197, R226). -/
theorem State.frameStep_of_error (hv : s.lookups.validateFrameHeader f = .error k) : s.frameStep f = s.raise k := by
  simp [State.frameStep, State.tryFrameStep, hv]

theorem State.frameStep_bad_sync (hc : s.cur + 4 ≤ s.src.len) (hsync : f.sync ≠ syncPattern) :
    s.frameStep f = s.raise .syncMismatch :=
  State.frameStep_of_error (State.validateFrameHeader_bad_sync hc hsync)

theorem State.frameStep_reserved (hc : s.cur + 4 ≤ s.src.len) (hsync : f.sync = syncPattern)
    (hr : f.reservedClear = false) : s.frameStep f = s.raise .reservedBitSet :=
  State.frameStep_of_error (State.validateFrameHeader_reserved hc hsync hr)

theorem State.frameStep_short (f : FrameHeaderRaw) (hc : s.src.len < s.cur + 4) : s.frameStep f = s.raise .truncated :=
  State.frameStep_of_error (State.validateFrameHeader_short f hc)

end Sys2Proof.Machine

namespace Sys2Proof

open Machine

/-- The headers of FRAMEHDR.RESERVED1 and FRAMEHDR.RESERVED2 carry the bits the row gives them (R213). -/
theorem FrameCodes.header_reservedClear (c : FrameCodes) (reserved1 reserved2 : BitVec 1) :
    (c.header reserved1 reserved2).reservedClear = (reserved1 == 0#1 && reserved2 == 0#1) := rfl

/-- Settles O28: the three rows run one Frame step, on headers that differ in the sync and the reserved bits alone. -/
theorem frameHeaderFaults : Obligations.FrameHeaderFaults := by
  refine fun s => ⟨fun hc => ⟨fun f hsync => ?_, fun c r2 => ?_, fun r1 c => ?_⟩,
    fun hc => ⟨fun f => ?_, fun c r2 => ?_, fun r1 c => ?_⟩⟩
  · exact congrArg _ (State.frameStep_bad_sync hc hsync)
  · exact congrArg _ (State.frameStep_reserved hc rfl (by simp [FrameCodes.header_reservedClear]))
  · exact congrArg _ (State.frameStep_reserved hc rfl (by simp [FrameCodes.header_reservedClear]))
  · exact congrArg _ (State.frameStep_short f hc)
  · exact congrArg _ (State.frameStep_short (c.header 1#1 r2) hc)
  · exact congrArg _ (State.frameStep_short (c.header r1 1#1) hc)

end Sys2Proof
end

section
/-! PROOFS. Fault entry: the faults each element can raise (R222, R176 (d)), the state `raise` leaves (R226), and SR1 as
the host reads it after each fault (R221, R31). -/

namespace Sys2Proof.Machine

variable {s t : State} {i : Instr} {f : FrameHeaderRaw} {k : FaultKind}

/-! ### The faults of the elements other than blocks (R222) -/

/-- Where success never leaves the machine Failed, a machine Failed afterwards has entered one of the operation's
faults. -/
theorem State.orRaise_failed {r : Except FaultKind State} {faults : List FaultKind}
    (hfailed : (s.orRaise r).status = .failed) (hok : ∀ u, r = .ok u → u.status ≠ .failed)
    (herror : ∀ k, r = .error k → k ∈ faults) : ∃ k ∈ faults, s.orRaise r = s.raise k := by
  cases r with
  | ok u => exact absurd hfailed (hok u rfl)
  | error k => exact ⟨k, herror k rfl, rfl⟩

/-- The faults of the signature check: the read's and the comparison's (R192). -/
theorem State.validateMagic_error {sig : Word} (hk : s.validateMagic sig = .error k) :
    k = .truncated ∨ k = .badSignature := by
  unfold State.validateMagic at hk
  cases ha : s.advance 4 with
  | error k' =>
    obtain rfl : k' = k := by simpa [ha] using hk
    exact .inl (State.advance_eq_error.1 ha).2
  | ok u =>
    by_cases hm : sig = s.cfg.magic
    · simp [ha, hm] at hk
    · exact .inr (by simpa [ha, hm] using hk.symm)

/-- The Frame step's faults are the validator's (R197). -/
theorem State.tryFrameStep_eq_error : s.tryFrameStep f = .error k ↔ s.lookups.validateFrameHeader f = .error k := by
  unfold State.tryFrameStep
  cases s.lookups.validateFrameHeader f <;> simp

/-- A fault of the Frame step is one of the row's own: the two RESERVED rows have a good sync (R213, R222). -/
theorem Instr.mem_canRaise_of_tryFrameStep (hc : i.context = .element .frame) (hi : i.frameHeader = some f)
    (hk : s.tryFrameStep f = .error k) : k ∈ Instr.canRaise i := by
  rcases State.validateFrameHeader_error (State.tryFrameStep_eq_error.1 hk) with rfl | ⟨rfl, hsync⟩ | ⟨rfl, -⟩
  · exact Instr.truncated_mem_canRaise i
  · cases i <;> cases hc <;> cases hi
    · simp [Instr.canRaise]
    · exact absurd rfl hsync
    · exact absurd rfl hsync
  · cases i <;> cases hc <;> simp [Instr.canRaise]

/-- A MAGIC, a row of phase Frame or a field group that leaves the machine Failed entered one of its faults: where it
completes, STATUS stays, or becomes Done (R192, R197, R140, R120). -/
theorem exec_other_failed (hi : i.blockHeader = none) (hs : s.status ≠ .failed) (he : exec i s = .next t)
    (ht : t.status = .failed) : ∃ k ∈ Instr.canRaise i, t = s.raise k := by
  cases i with
  | magic sig =>
    obtain rfl := Host.Outcome.next.inj he
    refine State.orRaise_failed ht (fun u hu => ?_) (fun k hk => ?_)
    · obtain ⟨-, -, rfl⟩ := State.validateMagic_eq_ok.1 hu
      exact hs
    · simpa [Instr.canRaise] using State.validateMagic_error hk
  | framehdr | framehdrReserved1 | framehdrReserved2 =>
    obtain rfl := Host.Outcome.next.inj he
    refine State.orRaise_failed ht (fun u hu => ?_) (fun k hk => Instr.mem_canRaise_of_tryFrameStep rfl rfl hk)
    obtain ⟨-, -, rfl⟩ := State.tryFrameStep_eq_ok.1 hu
    nofun
  | fmtBlkhdr h =>
    obtain rfl := Host.Outcome.next.inj he
    refine State.orRaise_failed ht (fun u hu => ?_) (fun k hk => ?_)
    · obtain ⟨-, rfl⟩ := State.decodeHeader_eq_ok.1 hu
      exact hs
    · exact List.mem_singleton.2 (State.decodeHeader_eq_error.1 hk).2
  | payStreaminfo | paySeekpoint | payU32le =>
    obtain rfl := Host.Outcome.next.inj he
    refine State.orRaise_failed ht (fun u hu => ?_) (fun k hk => ?_)
    · obtain ⟨-, rfl⟩ := State.advance_eq_ok.1 hu
      exact hs
    · exact List.mem_singleton.2 (State.advance_eq_error.1 hk).2
  | fmtFramehdr c =>
    obtain ⟨-, -, -, -, hcomplete⟩ := fieldGroupsComplete s
    obtain ⟨-, -, -, -, hshort⟩ := fieldGroupsTruncated s
    rcases le_or_gt (s.cur + 4) s.src.len with hc | hc
    · rw [hcomplete c hc, Host.Outcome.next.injEq] at he
      subst he
      exact absurd ht hs
    · rw [hshort c hc, Host.Outcome.next.injEq] at he
      exact ⟨.truncated, Instr.truncated_mem_canRaise _, he.symm⟩
  | _ => cases hi

/-! ### What fault entry leaves (R226) -/

/-- The thirteen pieces of R24 after a fault: nothing of the parse is left but the fault. -/
@[simp] theorem State.raise_arch (s : State) (k : FaultKind) : (s.raise k).arch
    = { State.reset with status := .failed, errClass := some k.faultClass, errKind := some k } := rfl

/-- SR1 after a fault: the code of its class, bit 3 at 0, its own number (R31, log 11). -/
@[simp] theorem State.raise_sr1 (s : State) (k : FaultKind) :
    (s.raise k).sr1 = errClassCode (some k.faultClass) ++ 0#1 ++ k.code := rfl

end Sys2Proof.Machine

namespace Sys2Proof

open Machine

/-- Settles O39: a block that completes leaves STATUS as it was, and so do the other elements, or they end the parse
Done. -/
theorem faultsByElement : Obligations.FaultsByElement := by
  intro i s t hs he ht
  cases hi : i.blockHeader with
  | none => exact exec_other_failed hi hs he ht
  | some h =>
    rcases exec_blockHeader_cases hi he with hfault | ⟨-, r, c, -, rfl⟩
    · exact hfault
    · exact absurd ht hs

/-- Settles O40: what is left of the machine is the fault, and outside Busy the engine stands still. -/
theorem faultEntry : Obligations.FaultEntry :=
  fun s k => ⟨State.raise_arch s k, engineStep_not_busy (by simp)⟩

/-- Settles O41: the six codes of class and kind, put together. -/
theorem faultCodes : Obligations.FaultCodes := by
  intro s
  simp only [State.raise_sr1]
  decide

end Sys2Proof
end

section
/-! PROOFS. The hazards of a running parse: a reset (R260), a source that changes (R263, U9), and one that no longer
answers (U12). -/

namespace Sys2Proof.Machine

variable {s : State} {rest : List HostMove}

/-- The thirteen pieces of R24 after the reset event are those of the machine after reset (R43, R260). -/
@[simp] theorem State.resetEvent_arch (s : State) : s.resetEvent.arch = State.reset.arch := rfl

/-- A reset is taken in every STATUS; the host's further moves stay (R260, log 13). -/
theorem step_reset (hh : s.host = .reset :: rest) : step s = .next (State.resetEvent { s with host := rest }) :=
  step_move hh (by simp)

/-- While Busy a changed source is refused (R263, U9). -/
theorem step_changeSource_busy (hb : s.status = .busy) (hh : s.host = .changeSource :: rest) :
    step s = .refused .sourceChangedWhileBusy := by
  simp [step_move hh, hostMove, hb]

/-- While Busy a source that no longer answers leaves the engine stuck (U12). -/
theorem step_stopAnswering_busy (hb : s.status = .busy) (hh : s.host = .stopAnswering :: rest) :
    step s = .fault .unansweredRead := by
  simp [step_move hh, hostMove, hb]

end Sys2Proof.Machine

namespace Sys2Proof

open Machine

/-- Settles O45: no STATUS is asked for, and the reset event keeps the configuration and the host's further moves. -/
theorem resetEvent : Obligations.ResetEvent := fun s rest hh =>
  ⟨State.resetEvent { s with host := rest }, step_reset hh, State.resetEvent_arch _, rfl, rfl⟩

/-- Settles O48: while Busy each of the two moves has its own answer, and outside a parse neither resets nor starts, so both
are without effect. -/
theorem hostStopsWhileBusy : Obligations.HostStopsWhileBusy := by
  refine fun s rest => ⟨fun hb => ⟨step_changeSource_busy hb, step_stopAnswering_busy hb⟩, fun hb hh => ?_⟩
  obtain ⟨-, hstable⟩ := stableUntilStartOrReset s hb
  rcases hh with hchange | hstop
  · exact hstable .changeSource rest hchange (by simp) (by simp)
  · exact hstable .stopAnswering rest hstop (by simp) (by simp)

end Sys2Proof
end
